-- ==== Sys2Proof/Word.lean ====
section
/-! DEFINITION. The widths the spec names: a register value (32 bits, R6 REG_WIDTH), a byte, and the
64-bit quantities DATA and RES (00_scope.md R6, R9; 10_state.md R13). Every quantity is unsigned (R10). -/

namespace Sys2Proof

/-- One host access, one register, one command word: 32 bits (R6 `REG_WIDTH`, R41). -/
abbrev Word := BitVec 32

/-- One element of RAW or ARR, the CRC accumulator, an IMM8 operand (R13, R41). -/
abbrev Byte := BitVec 8

/-- A 64-bit quantity held in two registers: DATA, RES, the DATA snapshot in PEND (R13). -/
abbrev Dword := BitVec 64

end Sys2Proof
end

