-- ==== Sys2Proof/Config.lean ====
section
/-! DEFINITION. The implementation parameters of 00_scope.md R6, and the free values the spec leaves
open. A parameter the spec marks OPEN and a free value are constants without a body: no proof can see
their value. -/

namespace Sys2Proof

/-- `NATIVE_LE` (R6, 93 I1): OPEN, constant for the life of an instance. Log 1. -/
opaque Config.nativeLe : Bool

/-- `BASE` divided by 128 (R6, R32, 93 I2): OPEN. Log 2. -/
opaque Config.basePage : Nat

/-- `BASE` (R6, R32): the host address of the register window, a multiple of 128. -/
def Config.base : Nat := 128 * Config.basePage

/-- `ID_VALUE` (R6, R17). -/
def Config.idValue : Word := 0x43524338#32

/-- `POLY` (R6, R70). -/
def Config.poly : Byte := 0x31#8

/-- `MAX_W` (R6): the largest packed value in bytes. -/
def Config.maxW : Nat := 8

/-- The offset of the window's last register (R14, R31). -/
def Config.lastOffset : Nat := 0x7C

/-- What the n-th free read while BUSY = 1 draws (R55: "a free draw of the read step, independent for
each read and under no law"). Log 4. -/
opaque Config.freeWord : Nat → Word

/-- Whose step comes next (R7, R8): the host's, the engine's, or the platform's reset event (R100). -/
inductive Turn where
  | host
  | engine
  | reset
  deriving DecidableEq, Repr, Inhabited

/-- The n-th turn that no schedule fixed: OPEN, because R54 admits any finite number of host steps between
issue and completion (`LAT(op)`, 93 I3). Log 3. -/
opaque Config.freeTurn : Nat → Turn

/-- What a host variable holds before any `RD` wrote it (R47 is silent). Log 7. -/
opaque Config.initialVar : Nat → Word

end Sys2Proof
end

