-- ==== Sys2Proof/Syntax.lean ====
section
/-! DEFINITION. The command set: one constructor per row of spec/opcode_table.json (30_encoding.md R43). -/

namespace Sys2Proof

/-- The eleven commands of 30_encoding.md R43, with the operands of R42 and the command syntax of R48. -/
inductive Instr where
  /-- OPC 0x00 (R58). -/
  | nop
  /-- OPC 0x01 (R60): `w` is the packed size in bytes, `c[18:16] + 1`. -/
  | pack (w : Nat)
  /-- OPC 0x02 (R62). -/
  | getbe
  /-- OPC 0x03 (R63). -/
  | getle
  /-- OPC 0x04 (R64). -/
  | getu32
  /-- OPC 0x05 (R65). -/
  | getu32be
  /-- OPC 0x06 (R66). -/
  | getu32le
  /-- OPC 0x07 (R67). -/
  | unpack
  /-- OPC 0x10 (R73): `imm` is `c[15:8]`. -/
  | crcseed (imm : Byte)
  /-- OPC 0x11 (R74): `imm` is `c[15:8]`. -/
  | crcbyte (imm : Byte)
  /-- OPC 0x12 (R75). -/
  | crcpack
  deriving DecidableEq, Repr

end Sys2Proof
end

