-- ==== Sys2Proof/WellFormed.lean ====
section
/-! DEFINITION. Which terms of `Instr` the encoding can express (30_encoding.md R42, R48). -/

namespace Sys2Proof

/-- A packed size the encoding expresses: "an unsigned value from 1 to 8" (R42). -/
def sizeOk (w : Nat) : Bool := decide (1 ≤ w ∧ w ≤ Config.maxW)

/-- The only operand a term can get wrong is PACK's size: R48 refuses `PACK 0` and `PACK 9` and above.
An immediate is a byte by its type (R42: never above 0xFF). -/
def Instr.wf : Instr → Bool
  | .nop => true
  | .pack w => sizeOk w
  | .getbe => true
  | .getle => true
  | .getu32 => true
  | .getu32be => true
  | .getu32le => true
  | .unpack => true
  | .crcseed _ => true
  | .crcbyte _ => true
  | .crcpack => true

end Sys2Proof
end

