-- ==== Sys2Proof/Decode.lean ====
section
/-! DEFINITION. Command words: field extraction (30_encoding.md R41, R42), the decoder, total on every
32-bit word and naming why a word is illegal (R44, R45), the encoder (R44) and the opcode map (R43). -/

namespace Sys2Proof

/-- OPC, bits [7:0] (R41). -/
def opcField (c : Word) : Byte := c.extractLsb' 0 8

/-- IMM8, bits [15:8] (R41). -/
def immField (c : Word) : Byte := c.extractLsb' 8 8

/-- WM1, bits [18:16] (R41). -/
def wm1Field (c : Word) : BitVec 3 := c.extractLsb' 16 3

/-- RSV, bits [31:19] (R41). -/
def rsvField (c : Word) : BitVec 13 := c.extractLsb' 19 13

/-- The four ways a word is illegal (R45, items 1 to 4). Where several hold, the model names one:
DESIGN CHOICE, log 18; nothing a program sees depends on it. -/
inductive Illegal where
  /-- R45 item 1: OPC in 0x08 to 0x0F or 0x13 to 0xFF. -/
  | unassignedOpcode
  /-- R45 item 2: RSV non-zero. -/
  | reservedBits
  /-- R45 item 3: WM1 non-zero in a command other than PACK. -/
  | sizeBits
  /-- R45 item 4: IMM8 non-zero in a command other than CRCSEED and CRCBYTE. -/
  | immediateBits
  deriving DecidableEq, Repr

/-- What the decoder answers: "the unique row whose match equals c & mask, or ILLEGAL" (R44). -/
inductive Decoded where
  | legal (i : Instr)
  | illegal (why : Illegal)
  deriving DecidableEq, Repr

/-- The instruction of a legal word. -/
def Decoded.instr? : Decoded → Option Instr
  | .legal i => some i
  | .illegal _ => none

/-- A command with neither a size nor an immediate: WM1 and IMM8 must be 0 (R41, R45 items 3 and 4). -/
def decodeBare (c : Word) (i : Instr) : Decoded :=
  if wm1Field c ≠ 0#3 then .illegal .sizeBits
  else if immField c ≠ 0#8 then .illegal .immediateBits
  else .legal i

/-- CRCSEED and CRCBYTE: IMM8 is the operand, WM1 must be 0 (R41, R42, R45 item 3). -/
def decodeImm (c : Word) (f : Byte → Instr) : Decoded :=
  if wm1Field c ≠ 0#3 then .illegal .sizeBits
  else .legal (f (immField c))

/-- PACK: `W = c[18:16] + 1`, IMM8 must be 0 (R41, R42, R45 item 4). -/
def decodePack (c : Word) : Decoded :=
  if immField c ≠ 0#8 then .illegal .immediateBits
  else .legal (.pack ((wm1Field c).toNat + 1))

/-- `decode(c)` (R43 to R46): every command is one 32-bit word, and nothing but the word decides. -/
def decode (c : Word) : Decoded :=
  if rsvField c ≠ 0#13 then .illegal .reservedBits
  else
    match (opcField c).toNat with
    | 0x00 => decodeBare c .nop
    | 0x01 => decodePack c
    | 0x02 => decodeBare c .getbe
    | 0x03 => decodeBare c .getle
    | 0x04 => decodeBare c .getu32
    | 0x05 => decodeBare c .getu32be
    | 0x06 => decodeBare c .getu32le
    | 0x07 => decodeBare c .unpack
    | 0x10 => decodeImm c .crcseed
    | 0x11 => decodeImm c .crcbyte
    | 0x12 => decodeBare c .crcpack
    | _ => .illegal .unassignedOpcode

/-- `enc` (R44). -/
def encode : Instr → Word
  | .nop => 0x00000000#32
  | .pack w => 0x00000001#32 ||| (BitVec.ofNat 32 (w - 1) <<< 16)
  | .getbe => 0x00000002#32
  | .getle => 0x00000003#32
  | .getu32 => 0x00000004#32
  | .getu32be => 0x00000005#32
  | .getu32le => 0x00000006#32
  | .unpack => 0x00000007#32
  | .crcseed s => 0x00000010#32 ||| (s.setWidth 32 <<< 8)
  | .crcbyte b => 0x00000011#32 ||| (b.setWidth 32 <<< 8)
  | .crcpack => 0x00000012#32

/-- One row of the opcode map (R43): "a word c selects the row when `c & mask == match`". -/
structure OpcodeRow where
  mnemonic : String
  bits : Word
  mask : Word
  deriving DecidableEq, Repr

/-- Whether a word selects a row (R43). -/
def OpcodeRow.selects (r : OpcodeRow) (c : Word) : Bool := c &&& r.mask == r.bits

/-- The opcode map of R43, row by row (the same rows as spec/opcode_table.json). -/
def opcodeMap : List OpcodeRow :=
  [ ⟨"NOP", 0x00000000#32, 0xFFFFFFFF#32⟩,
    ⟨"PACK", 0x00000001#32, 0xFFF8FFFF#32⟩,
    ⟨"GETBE", 0x00000002#32, 0xFFFFFFFF#32⟩,
    ⟨"GETLE", 0x00000003#32, 0xFFFFFFFF#32⟩,
    ⟨"GETU32", 0x00000004#32, 0xFFFFFFFF#32⟩,
    ⟨"GETU32BE", 0x00000005#32, 0xFFFFFFFF#32⟩,
    ⟨"GETU32LE", 0x00000006#32, 0xFFFFFFFF#32⟩,
    ⟨"UNPACK", 0x00000007#32, 0xFFFFFFFF#32⟩,
    ⟨"CRCSEED", 0x00000010#32, 0xFFFF00FF#32⟩,
    ⟨"CRCBYTE", 0x00000011#32, 0xFFFF00FF#32⟩,
    ⟨"CRCPACK", 0x00000012#32, 0xFFFFFFFF#32⟩ ]

/-- The mnemonic of R43 for each command. -/
def mnemonicOf : Instr → String
  | .nop => "NOP"
  | .pack _ => "PACK"
  | .getbe => "GETBE"
  | .getle => "GETLE"
  | .getu32 => "GETU32"
  | .getu32be => "GETU32BE"
  | .getu32le => "GETU32LE"
  | .unpack => "UNPACK"
  | .crcseed _ => "CRCSEED"
  | .crcbyte _ => "CRCBYTE"
  | .crcpack => "CRCPACK"

/-- The instruction the decoder reads from a table word. The table's word is the 32-bit value written to
CMD, its bit 0 the value's bit 0 (R33, R41: a value, not a byte sequence); bits above `nbits` are 0. -/
def decodeTableWord (nbits w : Nat) : Option Instr :=
  (decode (BitVec.ofNat 32 (w % 2 ^ nbits))).instr?

end Sys2Proof
end

