-- ==== Sys2Proof/Machine/State.lean ====
section
/-! DEFINITION. The machine's state: every piece of state 10_state.md R13 gives the block, the host agent of
R7 and R47, and the schedule that says whose step comes next (R8, R54); the reasons a step can stop; reset. -/

namespace Sys2Proof.Machine

/-- Eight byte lanes: RAW[0..7] and ARR0 to ARR7 (R13). -/
structure Lanes where
  b0 : Byte
  b1 : Byte
  b2 : Byte
  b3 : Byte
  b4 : Byte
  b5 : Byte
  b6 : Byte
  b7 : Byte
  deriving DecidableEq, Repr

/-- What PEND holds while BUSY = 1 (R26): the accepted command word and the DATA value at issue. -/
structure Pending where
  word : Word
  data : Dword
  deriving DecidableEq, Repr

/-- The registers of the window, by the names of R14; `reserved` is offsets 0x44 to 0x7C (R30). -/
inductive Reg where
  | id
  | status
  | cmd
  | errcmd
  | dataLo
  | dataHi
  | resLo
  | resHi
  | crc
  | arr (i : Fin 8)
  | reserved
  deriving DecidableEq, Repr

/-- A statement of the host-script language (30_encoding.md R47). `WR`, `RD` and `CMD` are the accesses they
stand for, `MemWrite(BASE + off, n, v)` and `MemRead(BASE + off, n)`, so that an access R31 does not admit can
be written too. Labels and host variables are named by numbers. Log 6. -/
inductive Stmt where
  /-- `MemWrite(BASE + off, n, v)`. -/
  | memWrite (off : Int) (n : Nat) (v : Word)
  /-- `x <- MemRead(BASE + off, n)`. -/
  | memRead (off : Int) (n : Nat) (x : Nat)
  /-- `label:` marks a place. -/
  | label (l : Nat)
  /-- `BNZ x, m, label`: continue at the label if `(x & m) != 0`. -/
  | bnz (x : Nat) (m : Word) (l : Nat)
  /-- `BZ x, m, label`: continue at the label if `(x & m) == 0`. -/
  | bz (x : Nat) (m : Word) (l : Nat)
  deriving DecidableEq, Repr

/-- The host agent (R7): its script, "the position in the host's own program" (R16) and its variables, kept
as (variable, value) pairs with the variables strictly rising. -/
structure HostAgent where
  script : List Stmt
  pos : Nat
  vars : List (Nat × Word)
  deriving DecidableEq, Repr

/-- Whose steps come next: the turns already fixed, then free turns; `turnDraws` counts the free ones. Log 3. -/
structure Sched where
  turns : List Turn
  turnDraws : Nat
  deriving DecidableEq, Repr

/-- The state. The first fifteen fields are the block's (R13, "nothing else is state"; DATA and RES are two
registers each, R36); the last three are the model's own (INVENTORY.md, State). -/
structure State where
  /-- RAW[0..7] (R20). -/
  raw : Lanes
  /-- STATUS.VALID (R18, R27). -/
  valid : Bool
  /-- STATUS.WM1 (R18, R27). -/
  wm1 : BitVec 3
  /-- The CRC accumulator (R24). -/
  crc : Byte
  /-- DATA_LO (R22). -/
  dataLo : Word
  /-- DATA_HI (R22). -/
  dataHi : Word
  /-- RES_LO (R23). -/
  resLo : Word
  /-- RES_HI (R23). -/
  resHi : Word
  /-- ARR0 to ARR7 (R25). -/
  arr : Lanes
  /-- STATUS.BUSY (R18, R27). -/
  busy : Bool
  /-- STATUS.ERR (R18, R81). -/
  err : BitVec 4
  /-- STATUS.MERR (R18, R90). -/
  merr : Bool
  /-- ERRCMD (R21). -/
  errcmd : Word
  /-- PEND (R26). -/
  pend : Option Pending
  /-- STATUS.NLE, the instance's constant `NATIVE_LE` (R18, R61). No step writes it. Log 1. -/
  nle : Bool
  /-- The host agent (R7, R47). -/
  host : HostAgent
  /-- Whose step comes next. -/
  sched : Sched
  /-- How many free values the reads while busy have drawn (R55). Log 4. -/
  readDraws : Nat
  deriving DecidableEq, Repr

/-- Why the machine stops. Each is safe: the machine stops where the spec gives no step, or in a state no run
reaches. An error of 60_exceptions.md is no fault: it is recorded and the machine goes on (R88). -/
inductive Fault where
  /-- The host's step made an access that is not an aligned 32-bit access inside the window; "a model gives it
  no step: the host is stuck" (R31, 93 I5). Raised by `memRead` and `memWrite`. Safe. Log 5. -/
  | accessNotAdmitted
  /-- The host's step branched to a label that does not stand exactly once in its script, so R47 gives it no
  place. Raised by `bnz` and `bz`. Safe. Log 8. -/
  | labelNotUnique
  /-- A completion with PEND empty: the completion step is enabled only with a command pending (R53, R26).
  Raised by the meanings of the commands; no run reaches it. Safe. Log 11. -/
  | pendEmpty
  /-- PEND holds a word that is no command: issue accepts none (R51). Raised by the engine's step; no run
  reaches it. Safe. Log 11. -/
  | pendIllegal
  deriving DecidableEq, Repr

/-- Why an instruction has no meaning. Each is safe: nothing is claimed of a machine that refuses. -/
inductive Refusal where
  /-- The instruction is not modelled yet; raised by no arm of `exec`. Safe. -/
  | notModelled (mnemonic : String)
  /-- A term of `Instr` that no command word encodes: PACK with a size outside 1 to 8 (R42, R48). Raised by
  PACK's meaning; the decoder never gives such a term. Safe. Log 13. -/
  | illFormed
  deriving DecidableEq, Repr

/-- Eight lanes of 0x00 (R28). -/
def Lanes.zero : Lanes := ⟨0#8, 0#8, 0#8, 0#8, 0#8, 0#8, 0#8, 0#8⟩

/-- The state right after reset of an instance whose `NATIVE_LE` is `le`: the values of R28 for the block, no
script for the host agent, no turn fixed (log 9). -/
def State.resetWith (le : Bool) : State where
  raw := Lanes.zero
  valid := false
  wm1 := 0#3
  crc := 0#8
  dataLo := 0#32
  dataHi := 0#32
  resLo := 0#32
  resHi := 0#32
  arr := Lanes.zero
  busy := false
  err := 0#4
  merr := false
  errcmd := 0#32
  pend := none
  nle := le
  host := { script := [], pos := 0, vars := [] }
  sched := { turns := [], turnDraws := 0 }
  readDraws := 0

/-- The machine right after reset (R28, R100, R101). -/
def State.reset : State := State.resetWith Config.nativeLe

end Sys2Proof.Machine
end

