-- ==== Sys2Proof/Machine/Operands.lean ====
section
/-! DEFINITION. The operands of the commands and the byte arithmetic of 00_scope.md R11: native-order bytes,
their reading as an integer, the two byte orders of §4.2 (R34), the packer's view of RAW, and the CRC-8 fold of
42_crc.md R70 to R72. -/

namespace Sys2Proof.Machine

/-- The lanes in index order. -/
def Lanes.toList (l : Lanes) : List Byte := [l.b0, l.b1, l.b2, l.b3, l.b4, l.b5, l.b6, l.b7]

/-- Element i of the eight lanes (R13: RAW[i], ARRi). -/
def Lanes.get (l : Lanes) (i : Fin 8) : Byte :=
  match i with
  | 0 => l.b0
  | 1 => l.b1
  | 2 => l.b2
  | 3 => l.b3
  | 4 => l.b4
  | 5 => l.b5
  | 6 => l.b6
  | 7 => l.b7

/-- Element i for i below the list's length, 0x00 above (R20, R25, R60, R62, R63). -/
def Lanes.fill (a : List Byte) : Lanes :=
  ⟨a.getD 0 0#8, a.getD 1 0#8, a.getD 2 0#8, a.getD 3 0#8, a.getD 4 0#8, a.getD 5 0#8, a.getD 6 0#8, a.getD 7 0#8⟩

/-- `byte(v, i)` = `v[8i+7 : 8i]` (R9). -/
def byteOf (v : Dword) (i : Nat) : Byte := v.extractLsb' (8 * i) 8

/-- The w least significant bytes of v, least significant first. -/
def bytesLsbFirst (v : Dword) (w : Nat) : List Byte := (List.range w).map (byteOf v)

/-- `rev(a, W)` (R11): `out[i] = a[W-1-i]`. -/
def rev (a : List Byte) : List Byte := a.reverse

/-- `nat_bytes(V, W)` (R11): the memory image of the W-byte value in native order. Bits of v above 8W do not
matter (R60). -/
def natBytes (le : Bool) (v : Dword) (w : Nat) : List Byte :=
  if le then bytesLsbFirst v w else rev (bytesLsbFirst v w)

/-- The sum over i of `a[i] << 8i` (R11). -/
def sumLsbFirst : List Byte → Nat
  | [] => 0
  | b :: rest => b.toNat + 256 * sumLsbFirst rest

/-- `from_nat(a, W)` (R11): a W-byte array read as a native-order unsigned integer. -/
def fromNat (le : Bool) (a : List Byte) : Nat :=
  if le then sumLsbFirst a else sumLsbFirst (rev a)

/-- `bswap32(x)` = `{byte(x,0), byte(x,1), byte(x,2), byte(x,3)}` (R11). -/
def bswap32 (x : Word) : Word :=
  x.extractLsb' 0 8 ++ x.extractLsb' 8 8 ++ x.extractLsb' 16 8 ++ x.extractLsb' 24 8

/-- The big-endian array of raw bytes: "If native order is little-endian, the stored bytes are reversed;
otherwise returned unchanged" (R62). -/
def bigEndian (le : Bool) (a : List Byte) : List Byte := if le then rev a else a

/-- The little-endian array of raw bytes: "reverses when native order is big-endian" (R63). -/
def littleEndian (le : Bool) (a : List Byte) : List Byte := if le then a else rev a

/-- `W` = R[WM1] + 1 (R9). -/
def State.packedSize (s : State) : Nat := s.wm1.toNat + 1

/-- RAW[0..n-1] (R12: the raw bytes are n = W of them; the 32-bit accessors take n = 4, R64). -/
def State.rawBytes (s : State) (n : Nat) : List Byte := s.raw.toList.take n

/-- `DATA = {DATA_HI, DATA_LO}` (R22). -/
def State.data (s : State) : Dword := s.dataHi ++ s.dataLo

/-- `RES = {RES_HI, RES_LO}` (R23). -/
def State.res (s : State) : Dword := s.resHi ++ s.resLo

/-- The 64-bit value `zext_64(v)` of a value below 2^64 (R67). -/
def zext64 (v : Nat) : Dword := BitVec.ofNat 64 v

/-- Bits [31:0] of a 64-bit value. -/
def lowHalf (v : Dword) : Word := v.extractLsb' 0 32

/-- Bits [63:32] of a 64-bit value. -/
def highHalf (v : Dword) : Word := v.extractLsb' 32 32

/-- One of the eight shifts of `crc_step` (R70): bit 7 is tested, the result is truncated to 8 bits. -/
def crcShift (x : Byte) : Byte :=
  if x &&& 0x80#8 ≠ 0#8 then (x <<< 1) ^^^ Config.poly else x <<< 1

/-- n shifts in a row. -/
def crcShifts : Nat → Byte → Byte
  | 0, x => x
  | n + 1, x => crcShifts n (crcShift x)

/-- `crc_step(c, b)` (R70). -/
def crcStep (c b : Byte) : Byte := crcShifts 8 (c ^^^ b)

/-- `crc_seq(s, data)` (R71): the first element is folded first. -/
def crcSeq (s : Byte) (data : List Byte) : Byte := data.foldl crcStep s

/-- The table form's `T[x] = crc_step(0x00, x)` (R72). -/
def crcTable (x : Byte) : Byte := crcStep 0x00#8 x

/-- The value's big-endian bytes, `[byte(V, W-1), ..., byte(V, 0)]` (R62, R75, the closed form). -/
def valueBytes (v : Dword) (w : Nat) : List Byte := rev (bytesLsbFirst v w)

/-- `crc8Fold(a1, ..., an)` (R77): each argument is a size and a value; the last argument is folded first, from
seed 0x00. R77 asks for n at least 1: see `crcFoldScript`. -/
def crcFold : List (Nat × Dword) → Byte
  | [] => 0x00#8
  | (w, v) :: rest => crcSeq (crcFold rest) (valueBytes v w)

end Sys2Proof.Machine
end

