-- ==== Sys2Proof/Machine/Flags.lean ====
section
/-! DEFINITION. The flags of STATUS (10_state.md R18, R27) and the error codes of 60_exceptions.md R81. -/

namespace Sys2Proof.Machine

/-- One flag as a 32-bit value, to be shifted to its place (R18). -/
def flagWord (b : Bool) : Word := if b then 1#32 else 0#32

/-- `(ERR << 8) | (MERR << 6) | (NLE << 5) | (WM1 << 2) | (VALID << 1) | BUSY` (R18), with the VALID and WM1 to be
shown: while BUSY = 1 those two fields read as any value (R55). -/
def statusWith (s : State) (valid : Bool) (wm1 : BitVec 3) : Word :=
  (s.err.setWidth 32 <<< 8) ||| (flagWord s.merr <<< 6) ||| (flagWord s.nle <<< 5) |||
    (wm1.setWidth 32 <<< 2) ||| (flagWord valid <<< 1) ||| flagWord s.busy

/-- STATUS with every field true (R18). -/
def statusWord (s : State) : Word := statusWith s s.valid s.wm1

/-- The VALID bit of a free draw (R55). -/
def drawnValid (d : Word) : Bool := d.getLsbD 1

/-- The WM1 field of a free draw (R55). -/
def drawnWm1 (d : Word) : BitVec 3 := d.extractLsb' 2 3

/-- Code 0 (R81): no error recorded. -/
def errNone : BitVec 4 := 0#4

/-- Code 1 (R81, R82). -/
def errIllegal : BitVec 4 := 1#4

/-- Code 2 (R81, R83). -/
def errEmpty : BitVec 4 := 2#4

/-- Code 3 (R81, R84). -/
def errWidth : BitVec 4 := 3#4

/-- Code 4 (R81, R85). -/
def errOverrun : BitVec 4 := 4#4

/-- The commands that read the packer, so that issue checks VALID (R51, R52, R83). -/
def readsPacker : Instr → Bool
  | .nop => false
  | .pack _ => false
  | .getbe => true
  | .getle => true
  | .getu32 => true
  | .getu32be => true
  | .getu32le => true
  | .unpack => true
  | .crcseed _ => false
  | .crcbyte _ => false
  | .crcpack => true

/-- The 32-bit accessors, so that issue checks W = 4 (R51, R52, R84). -/
def needsFourBytes : Instr → Bool
  | .nop => false
  | .pack _ => false
  | .getbe => false
  | .getle => false
  | .getu32 => true
  | .getu32be => true
  | .getu32le => true
  | .unpack => false
  | .crcseed _ => false
  | .crcbyte _ => false
  | .crcpack => false

end Sys2Proof.Machine
end

