-- ==== Sys2Proof/Machine/Ops.lean ====
section
/-! DEFINITION. The named operations over the state: the writes of a completion, recording an error and clearing
it (60_exceptions.md R80, R89), command issue (40_command_issue.md R51), the shared completion (R53), the window's
reads and writes (10_state.md R14, 20_memory.md R35), and the reset event (70_reset_and_hazards.md R100). -/

namespace Sys2Proof.Machine

/-! Writes of one group of registers. -/

/-- PACK's write of the whole packer (R20, R60): RAW with the bytes and zeros above, WM1 with w - 1, VALID with 1. -/
def State.loadPacker (s : State) (bytes : List Byte) (w : Nat) : State :=
  { s with raw := Lanes.fill bytes, wm1 := BitVec.ofNat 3 (w - 1), valid := true }

/-- GETBE's and GETLE's write of all eight elements (R25). -/
def State.setArr (s : State) (bytes : List Byte) : State := { s with arr := Lanes.fill bytes }

/-- A write of both halves of RES (R23). -/
def State.setRes (s : State) (lo hi : Word) : State := { s with resLo := lo, resHi := hi }

/-- A write of the accumulator (R24). -/
def State.setCrc (s : State) (v : Byte) : State := { s with crc := v }

/-- A host write of DATA_LO (R22). -/
def State.setDataLo (s : State) (v : Word) : State := { s with dataLo := v }

/-- A host write of DATA_HI (R22). -/
def State.setDataHi (s : State) (v : Word) : State := { s with dataHi := v }

/-- `PEND <- (c, {R[DATA_HI], R[DATA_LO]}); R[BUSY] <- 1` (R51, R57). -/
def State.accept (s : State) (c : Word) : State := { s with pend := some ⟨c, s.data⟩, busy := true }

/-- `PEND <- empty; R[BUSY] <- 0` (R53). -/
def State.retire (s : State) : State := { s with pend := none, busy := false }

/-- The first error: its code and its command word (R80). -/
def State.recordFirst (s : State) (code : BitVec 4) (c : Word) : State := { s with err := code, errcmd := c }

/-- A later error (R80, R90). -/
def State.recordMore (s : State) : State := { s with merr := true }

/-- `ERR <- 0, MERR <- 0, ERRCMD <- 0` (R89). -/
def State.clearErrors (s : State) : State := { s with err := 0#4, merr := false, errcmd := 0#32 }

/-- One free read was drawn (R55). -/
def State.countDraw (s : State) : State := { s with readDraws := s.readDraws + 1 }

/-- The host agent after its step. -/
def State.setHost (s : State) (h : HostAgent) : State := { s with host := h }

/-- The schedule after a turn was taken. -/
def State.setSched (s : State) (d : Sched) : State := { s with sched := d }

/-- The reset event (R100): every piece of the block's state to the value of R28, `NATIVE_LE` kept. The host agent
and the schedule are not the block's, and the count of free draws goes on. Log 15. -/
def State.resetBlock (s : State) : State :=
  { State.resetWith s.nle with host := s.host, sched := s.sched, readDraws := s.readDraws }

/-! Errors: the block's exceptions. -/

/-- `raise Error(code, c)` (R80), the only way an error is recorded. It transfers control nowhere (R88). -/
def raiseError (code : BitVec 4) (c : Word) (s : State) : State :=
  if s.err = errNone then s.recordFirst code c else s.recordMore

/-- A host write of v to STATUS (R18, R89): ERRCLR if v[31] = 1, else nothing; v[30:0] are ignored. -/
def writeStatus (v : Word) (s : State) : State := if v.getLsbD 31 then s.clearErrors else s

/-! Issue and completion. -/

/-- `issue(c)` (R51), with the checks of R52 in the priority of R86. -/
def issue (c : Word) (s : State) : State :=
  if s.busy then raiseError errOverrun c s
  else
    match decode c with
    | .illegal _ => raiseError errIllegal c s
    | .legal i =>
      if readsPacker i && !s.valid then raiseError errEmpty c s
      else if needsFourBytes i && decide (s.wm1 ≠ 3#3) then raiseError errWidth c s
      else s.accept c

/-- `complete()` (R53) around one command's `perform`: it reads PEND, performs, empties PEND and clears BUSY, in one
step. With PEND empty the step is not enabled. -/
def complete (perform : Dword → State → State) (s : State) : Host.Outcome State Fault Refusal :=
  match s.pend with
  | none => .fault .pendEmpty
  | some p => .next (perform p.data s).retire

/-! The register window. -/

/-- The accesses the block admits (R31): size 4, `0 <= off <= 0x7C`, off a multiple of 4. -/
def admitted (off : Int) (n : Nat) : Bool :=
  decide (n = 4 ∧ 0 ≤ off ∧ off ≤ (Config.lastOffset : Int) ∧ off.toNat % 4 = 0)

/-- The offset from BASE of a host address (R32): the platform's decode of the window's address. Log 2. -/
def busOffset (a : Nat) : Int := (a : Int) - (Config.base : Int)

/-- `off(REG)` (R14); a reserved offset for the reserved registers. -/
def Reg.off : Reg → Nat
  | .id => 0x00
  | .status => 0x04
  | .cmd => 0x08
  | .errcmd => 0x0C
  | .dataLo => 0x10
  | .dataHi => 0x14
  | .resLo => 0x18
  | .resHi => 0x1C
  | .crc => 0x20
  | .arr i => 0x24 + 4 * i.val
  | .reserved => 0x44

/-- The register at an admitted offset (R14, R30). -/
def regAt (off : Int) : Reg :=
  match off.toNat / 4 with
  | 0 => .id
  | 1 => .status
  | 2 => .cmd
  | 3 => .errcmd
  | 4 => .dataLo
  | 5 => .dataHi
  | 6 => .resLo
  | 7 => .resHi
  | 8 => .crc
  | 9 => .arr 0
  | 10 => .arr 1
  | 11 => .arr 2
  | 12 => .arr 3
  | 13 => .arr 4
  | 14 => .arr 5
  | 15 => .arr 6
  | 16 => .arr 7
  | _ => .reserved

/-- What a register reads as while BUSY = 0 (R14, R17 to R25, R30). -/
def trueValue (r : Reg) (s : State) : Word :=
  match r with
  | .id => Config.idValue
  | .status => statusWord s
  | .cmd => 0#32
  | .errcmd => s.errcmd
  | .dataLo => s.dataLo
  | .dataHi => s.dataHi
  | .resLo => s.resLo
  | .resHi => s.resHi
  | .crc => s.crc.setWidth 32
  | .arr i => (s.arr.get i).setWidth 32
  | .reserved => 0#32

/-- The registers whose whole value is free while BUSY = 1 (R55). -/
def hiddenWhileBusy : Reg → Bool
  | .resLo => true
  | .resHi => true
  | .crc => true
  | .arr _ => true
  | .id => false
  | .status => false
  | .cmd => false
  | .errcmd => false
  | .dataLo => false
  | .dataHi => false
  | .reserved => false

/-- What a read of a register gives for one free draw d: while BUSY = 1, RES, CRC and ARR are d, VALID and WM1 are
fields of d, and everything else is true (R55); while BUSY = 0 everything is true (R37 item 4). -/
def readValue (r : Reg) (d : Word) (s : State) : Word :=
  if s.busy && hiddenWhileBusy r then d
  else if s.busy && r == .status then statusWith s (drawnValid d) (drawnWm1 d)
  else trueValue r s

/-- The free draw the next read takes (R55). -/
def nextDraw (s : State) : Word := Config.freeWord s.readDraws

/-- A host read of a register: the value, and the state. A read has no side effect on the block (R35); a read while
BUSY = 1 takes a draw, so that each read has its own (R55). -/
def readReg (r : Reg) (s : State) : Word × State :=
  (readValue r (nextDraw s) s, if s.busy then s.countDraw else s)

/-- A host write of a register (R35): CMD issues, STATUS may clear the errors, DATA_LO and DATA_HI are set, every
other write is ignored (R30). -/
def writeReg (r : Reg) (v : Word) (s : State) : State :=
  match r with
  | .cmd => issue v s
  | .status => writeStatus v s
  | .dataLo => s.setDataLo v
  | .dataHi => s.setDataHi v
  | .id => s
  | .errcmd => s
  | .resLo => s
  | .resHi => s
  | .crc => s
  | .arr _ => s
  | .reserved => s

end Sys2Proof.Machine
end

