-- ==== Sys2Proof/Machine/Control.lean ====
section
/-! DEFINITION. The meaning of NOP (40_command_issue.md R58): its completion (R53). -/

namespace Sys2Proof.Machine

/-- NOP (R58): `perform(NOP, c, D): (nothing)`. -/
def execNop (s : State) : Host.Outcome State Fault Refusal := complete (fun _ s => s) s

end Sys2Proof.Machine
end

