-- ==== Sys2Proof/Machine/Crc.lean ====
section
/-! DEFINITION. The meanings of the CRC-8 accumulator's commands (42_crc.md R73 to R75): each is the command's
completion (R53). -/

namespace Sys2Proof.Machine

/-- CRCSEED imm (R73): `R[CRC] <- imm`. -/
def execCrcseed (imm : Byte) (s : State) : Host.Outcome State Fault Refusal :=
  complete (fun _ s => s.setCrc imm) s

/-- CRCBYTE imm (R74): `R[CRC] <- crc_step(R[CRC], imm)`. -/
def execCrcbyte (imm : Byte) (s : State) : Host.Outcome State Fault Refusal :=
  complete (fun _ s => s.setCrc (crcStep s.crc imm)) s

/-- CRCPACK (R75): the big-endian array of the W raw bytes is folded into the accumulator. -/
def execCrcpack (s : State) : Host.Outcome State Fault Refusal :=
  complete (fun _ s => s.setCrc (crcSeq s.crc (bigEndian s.nle (s.rawBytes s.packedSize)))) s

end Sys2Proof.Machine
end

