-- ==== Sys2Proof/Machine/Packer.lean ====
section
/-! DEFINITION. The meanings of the byte packer's commands (41_packer.md R60, R62 to R67): each is the command's
completion (R53). Their errors are found at issue (R51), so none is raised here. -/

namespace Sys2Proof.Machine

/-- PACK w (R60): the packer takes the native-order bytes of `D[8w-1:0]`, D the snapshot in PEND (R57). A size the
encoding cannot express has no meaning (log 13). -/
def execPack (w : Nat) (s : State) : Host.Outcome State Fault Refusal :=
  if sizeOk w then complete (fun d s => s.loadPacker (natBytes s.nle d w) w) s
  else .refused .illFormed

/-- GETBE (R62): ARR takes the big-endian array of the W raw bytes. -/
def execGetbe (s : State) : Host.Outcome State Fault Refusal :=
  complete (fun _ s => s.setArr (bigEndian s.nle (s.rawBytes s.packedSize))) s

/-- GETLE (R63): ARR takes the little-endian array of the W raw bytes. -/
def execGetle (s : State) : Host.Outcome State Fault Refusal :=
  complete (fun _ s => s.setArr (littleEndian s.nle (s.rawBytes s.packedSize))) s

/-- GETU32 (R64): RES takes the four raw bytes read in native order, zero above. -/
def execGetu32 (s : State) : Host.Outcome State Fault Refusal :=
  complete (fun _ s => s.setRes (BitVec.ofNat 32 (fromNat s.nle (s.rawBytes 4))) 0#32) s

/-- GETU32BE (R65): RES takes the big-endian array of the four raw bytes read in native order, zero above. -/
def execGetu32be (s : State) : Host.Outcome State Fault Refusal :=
  complete (fun _ s => s.setRes (BitVec.ofNat 32 (fromNat s.nle (bigEndian s.nle (s.rawBytes 4)))) 0#32) s

/-- GETU32LE (R66): RES takes the little-endian array of the four raw bytes read in native order, zero above. -/
def execGetu32le (s : State) : Host.Outcome State Fault Refusal :=
  complete (fun _ s => s.setRes (BitVec.ofNat 32 (fromNat s.nle (littleEndian s.nle (s.rawBytes 4)))) 0#32) s

/-- UNPACK (R67): RES takes the W raw bytes read in native order, zero extended. -/
def execUnpack (s : State) : Host.Outcome State Fault Refusal :=
  complete
    (fun _ s =>
      let v := zext64 (fromNat s.nle (s.rawBytes s.packedSize))
      s.setRes (lowHalf v) (highHalf v)) s

end Sys2Proof.Machine
end

