-- ==== Sys2Proof/Machine/Dispatch.lean ====
section
/-! DEFINITION. One arm per command. The meaning of a command is its completion (40_command_issue.md R53). -/

namespace Sys2Proof.Machine

def exec (i : Instr) (s : State) : Host.Outcome State Fault Refusal :=
  match i with
  | .nop => Sys2Proof.Machine.execNop s
  | .pack w => Sys2Proof.Machine.execPack w s
  | .getbe => Sys2Proof.Machine.execGetbe s
  | .getle => Sys2Proof.Machine.execGetle s
  | .getu32 => Sys2Proof.Machine.execGetu32 s
  | .getu32be => Sys2Proof.Machine.execGetu32be s
  | .getu32le => Sys2Proof.Machine.execGetu32le s
  | .unpack => Sys2Proof.Machine.execUnpack s
  | .crcseed imm => Sys2Proof.Machine.execCrcseed imm s
  | .crcbyte imm => Sys2Proof.Machine.execCrcbyte imm s
  | .crcpack => Sys2Proof.Machine.execCrcpack s

end Sys2Proof.Machine
end

