-- ==== Sys2Proof/Machine/Engine.lean ====
section
/-! DEFINITION. The engine's step (40_command_issue.md R53): enabled exactly when BUSY = 1, it completes the command
PEND holds. -/

namespace Sys2Proof.Machine

/-- The engine's turn. With BUSY = 0 its step is not enabled and the turn passes (log 12). -/
def engineStep (s : State) : Host.Outcome State Fault Refusal :=
  if s.busy then
    match s.pend with
    | none => .fault .pendEmpty
    | some p =>
      match decode p.word with
      | .legal i => exec i s
      | .illegal _ => .fault .pendIllegal
  else .next s

end Sys2Proof.Machine
end

