-- ==== Sys2Proof/Machine/HostAgent.lean ====
section
/-! DEFINITION. The host agent's step (00_scope.md R7): one statement of its script in the language of
30_encoding.md R47. -/

namespace Sys2Proof.Machine

/-- The value of a host variable: what `RD` last wrote, or a free value (log 7). -/
def varValue (x : Nat) : List (Nat × Word) → Word
  | [] => Config.initialVar x
  | (y, v) :: rest => if x = y then v else varValue x rest

/-- `x <- v`, the variables kept strictly rising. -/
def setVar (x : Nat) (v : Word) : List (Nat × Word) → List (Nat × Word)
  | [] => [(x, v)]
  | (y, u) :: rest =>
    if x < y then (x, v) :: (y, u) :: rest
    else if x = y then (x, v) :: rest
    else (y, u) :: setVar x v rest

/-- The canonical form of the host's variables: strictly rising, so that equal assignments are equal lists. -/
def varsOk : List (Nat × Word) → Bool
  | [] => true
  | [_] => true
  | (x, _) :: (y, v) :: rest => decide (x < y) && varsOk ((y, v) :: rest)

/-- The positions at which a label stands, counting from k. -/
def labelPositions (l k : Nat) : List Stmt → List Nat
  | [] => []
  | st :: rest =>
    if st = .label l then k :: labelPositions l (k + 1) rest else labelPositions l (k + 1) rest

/-- The host agent at the next statement. -/
def HostAgent.advance (h : HostAgent) : HostAgent := { h with pos := h.pos + 1 }

/-- The host agent after a read of v into x. -/
def HostAgent.assign (h : HostAgent) (x : Nat) (v : Word) : HostAgent :=
  { h with vars := setVar x v h.vars, pos := h.pos + 1 }

/-- "continue at label" (R47). A label that does not stand exactly once gives no place (log 8). -/
def jump (l : Nat) (s : State) : Host.Outcome State Fault Refusal :=
  match labelPositions l 0 s.host.script with
  | [k] => .next (s.setHost { s.host with pos := k })
  | _ => .fault .labelNotUnique

/-- "continue at label if ..., else at the next statement" (R47). -/
def branch (taken : Bool) (l : Nat) (s : State) : Host.Outcome State Fault Refusal :=
  if taken then jump l s else .next (s.setHost s.host.advance)

/-- `MemWrite(BASE + off, n, v)` (R31, R35). -/
def hostWrite (off : Int) (n : Nat) (v : Word) (s : State) : Host.Outcome State Fault Refusal :=
  if admitted off n then
    .next ((writeReg (regAt off) v s).setHost s.host.advance)
  else .fault .accessNotAdmitted

/-- `x <- MemRead(BASE + off, n)` (R31, R35, R55). -/
def hostRead (off : Int) (n x : Nat) (s : State) : Host.Outcome State Fault Refusal :=
  if admitted off n then
    .next ((readReg (regAt off) s).2.setHost (s.host.assign x (readReg (regAt off) s).1))
  else .fault .accessNotAdmitted

/-- One statement (R47). -/
def execStmt (st : Stmt) (s : State) : Host.Outcome State Fault Refusal :=
  match st with
  | .memWrite off n v => hostWrite off n v s
  | .memRead off n x => hostRead off n x s
  | .label _ => .next (s.setHost s.host.advance)
  | .bnz x m l => branch (varValue x s.host.vars &&& m != 0#32) l s
  | .bz x m l => branch (varValue x s.host.vars &&& m == 0#32) l s

/-- The host's turn. Past the end of its script the host makes no access and the turn passes (log 12). -/
def hostStep (s : State) : Host.Outcome State Fault Refusal :=
  match s.host.script[s.host.pos]? with
  | none => .next s
  | some st => execStmt st s

end Sys2Proof.Machine
end

