-- ==== Sys2Proof/Machine/Schedule.lean ====
section
/-! DEFINITION. Whose step comes next (00_scope.md R8, 40_command_issue.md R54): the turns already fixed, in order,
then free turns. Nothing bounds how many host turns stand between an issue and its completion. Log 3. -/

namespace Sys2Proof.Machine

/-- The next turn. -/
def nextTurn (s : State) : Turn :=
  match s.sched.turns with
  | t :: _ => t
  | [] => Config.freeTurn s.sched.turnDraws

/-- The state once the turn is taken: the turn leaves the list, or is counted as drawn. -/
def takeTurn (s : State) : State :=
  match s.sched.turns with
  | _ :: rest => s.setSched { s.sched with turns := rest }
  | [] => s.setSched { s.sched with turnDraws := s.sched.turnDraws + 1 }

end Sys2Proof.Machine
end

