-- ==== Sys2Proof/Machine/Step.lean ====
section
/-! DEFINITION. One step of the machine: one turn of one agent (00_scope.md R7, R8), or the reset event
(70_reset_and_hazards.md R100). -/

namespace Sys2Proof.Machine

/-- The step: the host's next statement, the engine's completion, or reset. -/
def step (s : State) : Host.Outcome State Fault Refusal :=
  match nextTurn s with
  | .host => hostStep (takeTurn s)
  | .engine => engineStep (takeTurn s)
  | .reset => .next (takeTurn s).resetBlock

/-- The block fetches no instruction (R16): the command the engine runs next is the one in PEND (R53). So the word is
placed in PEND, as an accepted CMD write places it, with the DATA snapshot and BUSY = 1 (R51), and the next turn is
the engine's. Log 10. -/
def State.withFetchWord (s : State) (nbits w : Nat) : State :=
  (s.accept (BitVec.ofNat 32 (w % 2 ^ nbits))).setSched { s.sched with turns := .engine :: s.sched.turns }

end Sys2Proof.Machine
end

