-- ==== Sys2Proof/Machine/Script.lean ====
section
/-! DEFINITION. The host's side of 30_encoding.md: the statements `WR`, `RD` and `CMD` (R47), the assembler (R48), the
pseudo-instructions (R49), which carry the composite operations of 42_crc.md R76 to R78, and the boot checks of
70_reset_and_hazards.md R102. "Each label below is a fresh local label" (R49): an expansion takes the first of the
numbers it may use, and its docstring says how many it uses. Log 21. -/

namespace Sys2Proof.Machine

/-- `WR REG, v` (R47). -/
def wr (r : Reg) (v : Word) : Stmt := .memWrite (r.off : Int) 4 v

/-- `RD REG -> x` (R47). -/
def rd (r : Reg) (x : Nat) : Stmt := .memRead (r.off : Int) 4 x

/-- `CMD cmd` = `WR CMD, enc(cmd)` (R47), for a command the assembler does not refuse: "It never emits an illegal word"
(R48). -/
def cmd (i : Instr) : Option (List Stmt) := if i.wf then some [wr .cmd (encode i)] else none

/-- One command of the assembler's language (R48): a mnemonic and at most one operand. It "refuses PACK 0, PACK 9 and
above, and any immediate above 0xFF", and never emits an illegal word. -/
def assemble (mnemonic : String) (operand : Option Nat) : Option Instr :=
  match mnemonic, operand with
  | "NOP", none => some .nop
  | "PACK", some w => if sizeOk w then some (.pack w) else none
  | "GETBE", none => some .getbe
  | "GETLE", none => some .getle
  | "GETU32", none => some .getu32
  | "GETU32BE", none => some .getu32be
  | "GETU32LE", none => some .getu32le
  | "UNPACK", none => some .unpack
  | "CRCSEED", some v => if v ≤ 0xFF then some (.crcseed (BitVec.ofNat 8 v)) else none
  | "CRCBYTE", some v => if v ≤ 0xFF then some (.crcbyte (BitVec.ofNat 8 v)) else none
  | "CRCPACK", none => some .crcpack
  | _, _ => none

/-- An expansion made of parts: the assembler refuses it when it refuses a part (R48). -/
def joined : List (Option (List Stmt)) → Option (List Stmt)
  | [] => some []
  | none :: _ => none
  | some part :: rest => (joined rest).map (part ++ ·)

/-- `WAIT` (R49): polls STATUS through the host variable x until BUSY reads 0. One label. -/
def wait (l x : Nat) : List Stmt := [.label l, rd .status x, .bnz x 0x1#32 l]

/-- `ISSUE cmd` (R49). One label. -/
def issueCmd (l x : Nat) (i : Instr) : Option (List Stmt) := joined [some (wait l x), cmd i]

/-- `ERRCLR` (R49, R89). -/
def errclr : List Stmt := [wr .status 0x80000000#32]

/-- `CRCCLR` (R49). One label. -/
def crcclr (l x : Nat) : Option (List Stmt) := issueCmd l x (.crcseed 0x00#8)

/-- `LOADV v` (R49). -/
def loadv (v : Dword) : List Stmt := [wr .dataLo (lowHalf v), wr .dataHi (highHalf v)]

/-- `PACKV w, v` (R49). Its `PACK w` is refused for a size outside 1 to 8 (R48), and the expansion with it. One label. -/
def packv (l x w : Nat) (v : Dword) : Option (List Stmt) := joined [some (loadv v), issueCmd l x (.pack w)]

/-- `ISSUE CRCBYTE b0 ... ISSUE CRCBYTE bk-1` (R49). One label a byte. -/
def feedBytes (l x : Nat) : List Byte → Option (List Stmt)
  | [] => some []
  | b :: rest => joined [issueCmd l x (.crcbyte b), feedBytes (l + 1) x rest]

/-- `CRCBUF s, [b0..bk-1]` (R49, R76): r[7:0] = computeCrc8(s, data). Two labels and one a byte. -/
def crcBuf (l x r : Nat) (s : Byte) (data : List Byte) : Option (List Stmt) :=
  joined [issueCmd l x (.crcseed s), feedBytes (l + 1) x data, some (wait (l + 1 + data.length) x), some [rd .crc r]]

/-- `PACKV wn, vn; ISSUE CRCPACK; ...` over the arguments in the order they are folded (R49). Two labels an argument. -/
def foldArgs (l x : Nat) : List (Nat × Dword) → Option (List Stmt)
  | [] => some []
  | (w, v) :: rest => joined [packv l x w v, issueCmd (l + 1) x .crcpack, foldArgs (l + 2) x rest]

/-- `CRCFOLD (w1,v1), ..., (wn,vn)` (R49, R77): the last argument is folded first. The assembler refuses it with no
argument (R49) and with a size outside 1 to 8 (R48). Two labels and two an argument. -/
def crcFoldScript (l x r : Nat) (args : List (Nat × Dword)) : Option (List Stmt) :=
  if args.isEmpty then none
  else joined [crcclr l x, foldArgs (l + 1) x args.reverse, some (wait (l + 1 + 2 * args.length) x), some [rd .crc r]]

/-- `CRC8V w, v` = `CRCFOLD (w, v)` (R49, R78). -/
def crc8v (l x r w : Nat) (v : Dword) : Option (List Stmt) := crcFoldScript l x r [(w, v)]

/-- A statement the host can always take: its access is admitted (R31), its label stands exactly once (R47). -/
def stmtOk (script : List Stmt) : Stmt → Bool
  | .memWrite off n _ => admitted off n
  | .memRead off n _ => admitted off n
  | .label _ => true
  | .bnz _ _ l => (labelPositions l 0 script).length == 1
  | .bz _ _ l => (labelPositions l 0 script).length == 1

/-- A script no statement of which gets the host stuck. -/
def scriptOk (script : List Stmt) : Bool := script.all (stmtOk script)

/-- The reads of the boot procedure (R102 items 2 and 3): ID into x, STATUS into y. -/
def bootReads (x y : Nat) : List Stmt := [rd .id x, rd .status y]

/-- What the host checks after `bootReads` (R102 items 2 and 3): a CRC8PACK answers, and its native order is the
host's own. Log 22. -/
def bootOk (hostLe : Bool) (x y : Nat) (vars : List (Nat × Word)) : Bool :=
  varValue x vars == Config.idValue && (varValue y vars).getLsbD 5 == hostLe

/-! The composite operations as command sequences, each command issued and completed before the next is issued
(the reading of R76 and R77 at R56: "each completion sees the state that every earlier completion left"). -/

/-- One outcome after another. -/
def andThen (o : Host.Outcome State Fault Refusal) (f : State → Host.Outcome State Fault Refusal) :
    Host.Outcome State Fault Refusal :=
  match o with
  | .next s => f s
  | .fault r => .fault r
  | .refused r => .refused r

/-- The host issues one command and the engine takes its step. -/
def serve (i : Instr) (s : State) : Host.Outcome State Fault Refusal := engineStep (issue (encode i) s)

/-- A sequence of commands, each served before the next is issued. -/
def serveAll : List Instr → State → Host.Outcome State Fault Refusal
  | [], s => .next s
  | i :: rest, s => andThen (serve i s) (serveAll rest)

/-- One round of CRCFOLD (R77 step 2): load a value into DATA, PACK it, CRCPACK. -/
def serveRound (w : Nat) (v : Dword) (s : State) : Host.Outcome State Fault Refusal :=
  serveAll [.pack w, .crcpack] ((s.setDataLo (lowHalf v)).setDataHi (highHalf v))

/-- The rounds of R77 step 2, the last argument first. -/
def serveRounds : List (Nat × Dword) → State → Host.Outcome State Fault Refusal
  | [], s => .next s
  | (w, v) :: rest, s => andThen (serveRounds rest s) (serveRound w v)

/-- R77: CRCSEED 0x00, then the rounds from the last argument to the first. -/
def serveFold (args : List (Nat × Dword)) (s : State) : Host.Outcome State Fault Refusal :=
  andThen (serve (.crcseed 0x00#8) s) (serveRounds args)

end Sys2Proof.Machine
end

