-- ==== Sys2Proof/Safety.lean ====
section
/-! DEFINITION. The terms claims are stated in: an idle block, a packer that holds a value, a run with no error, the
machine's invariant, fairness of the engine. -/

namespace Sys2Proof.Machine

/-- No command is pending: BUSY = 0 (R12 "Busy"). -/
def Idle (s : State) : Prop := s.busy = false

/-- No error recorded: "ERR = 0 and MERR = 0" (R89). -/
def ErrorFree (s : State) : Prop := s.err = errNone ∧ s.merr = false

/-- The packer holds the value v of w bytes (R29's pair (V, W)): VALID, WM1 = w - 1, RAW its native-order bytes and
zeros above (R20). Only v's low 8w bits matter. -/
def Holds (s : State) (v : Dword) (w : Nat) : Prop :=
  sizeOk w = true ∧ s.valid = true ∧ s.wm1 = BitVec.ofNat 3 (w - 1) ∧ s.raw = Lanes.fill (natBytes s.nle v w)

/-- `V = D[8W-1:0]` (R60), zero extended. -/
def lowBytes (v : Dword) (w : Nat) : Nat := v.toNat % 2 ^ (8 * w)

/-- The command a block with BUSY = 1 has pending: PEND's word decodes to i, and its DATA snapshot is d (R26). -/
def Pends (s : State) (i : Instr) (d : Dword) : Prop :=
  s.busy = true ∧ ∃ c, s.pend = some ⟨c, d⟩ ∧ decode c = .legal i

/-- The invariant of every run (R13, R20, R21, R26, R51, R81). -/
structure BlockInv (s : State) : Prop where
  /-- PEND is empty while BUSY = 0 and holds a command while BUSY = 1 (R26). -/
  busyPending : s.busy = s.pend.isSome
  /-- The pending command passed its checks, which the packer still meets (R51). -/
  pendingChecked : ∀ p, s.pend = some p → ∃ i, decode p.word = .legal i ∧
    (readsPacker i = true → s.valid = true) ∧ (needsFourBytes i = true → s.wm1 = 3#3)
  /-- ERR is a code of R81: 5 to 15 never appear. -/
  errCode : s.err.toNat ≤ 4
  /-- With ERR = 0 no later error and no command word is recorded (R21, R80, R89). -/
  noErrorClean : s.err = errNone → s.merr = false ∧ s.errcmd = 0#32
  /-- With VALID = 1 the packer holds a value (R20, R29). -/
  packerHolds : s.valid = true → ∃ v w, Holds s v w
  /-- With VALID = 0 the packer is as reset leaves it (R20). -/
  packerEmpty : s.valid = false → s.raw = Lanes.zero ∧ s.wm1 = 0#3

/-- k steps, up to the first stop (`Host.Core.run` of the machine, over its own state type). -/
def runSteps : Nat → State → Host.Outcome State Fault Refusal
  | 0, s => .next s
  | k + 1, s => andThen (step s) (runSteps k)

/-- Weak fairness of the engine over a sequence of turns (R54): the engine's turn comes again and again. -/
def Fair (turns : Nat → Turn) : Prop := ∀ n, ∃ m, n ≤ m ∧ turns m = .engine

/-- The block's part of two states is the same; host agent, schedule and draws are left open. -/
def SameBlock (s t : State) : Prop :=
  t = { s with host := t.host, sched := t.sched, readDraws := t.readDraws }

/-- The packer of two states is the same (R20). -/
def SamePacker (s t : State) : Prop := t.raw = s.raw ∧ t.valid = s.valid ∧ t.wm1 = s.wm1 ∧ t.nle = s.nle

/-- The product over GF(2) of q and p, without carries: the xor of `p << i` over the bits i of q. -/
def gf2Mul (q : Byte) (p : BitVec 16) : BitVec 16 :=
  (List.range 8).foldl (fun acc i => if q.getLsbD i then acc ^^^ (p <<< i) else acc) 0#16

/-- Two states that differ at most in what errors were recorded. -/
def SameButErrors (s t : State) : Prop := t = { s with err := t.err, merr := t.merr, errcmd := t.errcmd }

end Sys2Proof.Machine
end

