-- ==== Sys2Proof/Certificates/Slice0/Obligations.lean ====
section
/-! DEFINITION. The statements for the provers. Each says which rule of spec/ it formalises; "log n" is
notes/assumptions/n.md. A command's meaning is its completion (40_command_issue.md R53), so a result statement starts
from a state in which the command is pending. -/

open Sys2Proof Sys2Proof.Machine

/-! Encoding. -/

/-- R44, R42: the decoder reads exactly the words the encoder writes for well-formed commands, with every operand. -/
def Obligations.DecodeAndEncodeAreInverse : Prop :=
  ∀ (c : Word) (i : Instr), decode c = .legal i ↔ (i.wf = true ∧ encode i = c)

/-- R43, R44: "decode(c) = the unique row whose match equals c & mask, or ILLEGAL when no row matches". -/
def Obligations.DecodeFollowsTheOpcodeMap : Prop :=
  ∀ c : Word,
    (∀ r ∈ opcodeMap, ∀ q ∈ opcodeMap, r.selects c = true → q.selects c = true → r = q) ∧
    (∀ i, decode c = .legal i → ∃ r ∈ opcodeMap, r.mnemonic = mnemonicOf i ∧ r.selects c = true) ∧
    ((∃ why, decode c = .illegal why) ↔ ∀ r ∈ opcodeMap, r.selects c = false)

/-- R45: which words are illegal, and what issuing one on an idle block does (BUSY = 0 is R82's condition: a word
written while busy is not decoded, R85). -/
def Obligations.IllegalWordsAndTheirEffect : Prop :=
  ∀ c : Word,
    let opc := (c.extractLsb' 0 8).toNat
    let illegal : Prop :=
      (0x08 ≤ opc ∧ opc ≤ 0x0F) ∨ 0x13 ≤ opc ∨ c.extractLsb' 19 13 ≠ 0#13 ∨
        (c.extractLsb' 16 3 ≠ 0#3 ∧ opc ≠ 0x01) ∨ (c.extractLsb' 8 8 ≠ 0#8 ∧ opc ≠ 0x10 ∧ opc ≠ 0x11)
    ((∃ why, decode c = .illegal why) ↔ illegal) ∧
      (illegal → ∀ s : State, s.busy = false →
        (s.err = 0#4 → issue c s = { s with err := 1#4, errcmd := c }) ∧
        (s.err ≠ 0#4 → issue c s = { s with merr := true }))

/-- R44: "The legal command words number exactly 1 + 8 + 6 + 256 + 256 + 1 = 528". -/
def Obligations.LegalWordsNumber528 : Prop :=
  ∃ l : List Word, l.Nodup ∧ l.length = 528 ∧ ∀ c, c ∈ l ↔ ∃ i, decode c = .legal i

/-- R44, the patterns: words written out bit by bit, one or more of every family. -/
def Obligations.WrittenOutWordsDecode : Prop :=
  decode 0b00000000000000000000000000000000#32 = .legal .nop ∧
  decode 0b00000000000000110000000000000001#32 = .legal (.pack 4) ∧
  decode 0b00000000000001110000000000000001#32 = .legal (.pack 8) ∧
  decode 0b00000000000000000000000000000101#32 = .legal .getu32be ∧
  decode 0b00000000000000001010010100010000#32 = .legal (.crcseed 0xA5#8) ∧
  decode 0b00000000000000001011111000010001#32 = .legal (.crcbyte 0xBE#8) ∧
  decode 0b00000000000000000000000000010010#32 = .legal .crcpack

/-- R48: the assembler gives the command that is written, with the operand that is written, refuses the operands it must,
and never emits an illegal word. -/
def Obligations.AssemblerNeverEmitsAnIllegalWord : Prop :=
  (∀ m o i, assemble m o = some i → i.wf = true ∧ decode (encode i) = .legal i ∧ mnemonicOf i = m) ∧
  (∀ w, (assemble "PACK" (some w)).isSome = true ↔ 1 ≤ w ∧ w ≤ 8) ∧
  (∀ v, (assemble "CRCSEED" (some v)).isSome = true ↔ v ≤ 0xFF) ∧
  (∀ v, (assemble "CRCBYTE" (some v)).isSome = true ↔ v ≤ 0xFF) ∧
  (∀ w, 1 ≤ w → w ≤ 8 → assemble "PACK" (some w) = some (.pack w)) ∧
  (∀ b : Byte, assemble "CRCSEED" (some b.toNat) = some (.crcseed b) ∧
    assemble "CRCBYTE" (some b.toNat) = some (.crcbyte b)) ∧
  (∀ i ∈ [Instr.nop, .getbe, .getle, .getu32, .getu32be, .getu32le, .unpack, .crcpack],
    assemble (mnemonicOf i) none = some i ∧ ∀ v, assemble (mnemonicOf i) (some v) = none) ∧
  (∀ m ∈ ["PACK", "CRCSEED", "CRCBYTE"], assemble m none = none)

/-- R48, R49: `PACKV`, `CRC8V` and `CRCFOLD` are refused exactly where the assembler refuses them (a size outside 1 to 8, no
argument), `CRCBUF` never, and every word an expansion writes to CMD is legal. -/
def Obligations.ExpansionsNeverEmitAnIllegalWord : Prop :=
  (∀ l x w v, (packv l x w v).isSome = true ↔ 1 ≤ w ∧ w ≤ 8) ∧
  (∀ l x r w v, (crc8v l x r w v).isSome = true ↔ 1 ≤ w ∧ w ≤ 8) ∧
  (∀ l x r args, (crcFoldScript l x r args).isSome = true ↔ args ≠ [] ∧ ∀ a ∈ args, 1 ≤ a.1 ∧ a.1 ≤ 8) ∧
  (∀ l x r s data, (crcBuf l x r s data).isSome = true) ∧
  (∀ (script : List Stmt) (c : Word),
    ((∃ l x i, issueCmd l x i = some script) ∨ (∃ l x w v, packv l x w v = some script) ∨
      (∃ l x r s data, crcBuf l x r s data = some script) ∨
      (∃ l x r args, crcFoldScript l x r args = some script)) →
    .memWrite 0x08 4 c ∈ script → ∃ i, decode c = .legal i)

/-- R49 ("Each label below is a fresh local label"), R31: the host is stuck in no expansion: every access is admitted, and
every branch has its label exactly once. -/
def Obligations.ExpansionsNeverGetStuck : Prop :=
  ∀ script : List Stmt,
    ((∃ l x i, issueCmd l x i = some script) ∨ (∃ l x w v, packv l x w v = some script) ∨
      (∃ l x r s data, crcBuf l x r s data = some script) ∨
      (∃ l x r args, crcFoldScript l x r args = some script)) →
    scriptOk script = true

/-! Issue and errors. -/

/-- R51, R52, R57: a command that passes every check is accepted, with the DATA snapshot, and nothing else changes; any
other command changes at most ERR, MERR and ERRCMD. -/
def Obligations.IssueAcceptsExactlyTheCheckedCommands : Prop :=
  ∀ (c : Word) (s : State),
    let passes : Prop :=
      s.busy = false ∧ ∃ i, decode c = .legal i ∧
        (i ∈ [.getbe, .getle, .getu32, .getu32be, .getu32le, .unpack, .crcpack] → s.valid = true) ∧
        (i ∈ [.getu32, .getu32be, .getu32le] → s.wm1 = 3#3)
    (passes → issue c s = { s with pend := some ⟨c, s.dataHi ++ s.dataLo⟩, busy := true }) ∧
    (¬ passes → SameButErrors s (issue c s) ∧ issue c s = (if s.err = 0#4 then
      { s with err := (issue c s).err, errcmd := c } else { s with merr := true }) ∧
      (issue c s).err ≠ 0#4)

/-- R86: the one error a command reports, in the order OVERRUN, ILLEGAL, EMPTY, WIDTH; with no error recorded before,
ERR shows it and ERRCMD the word, and a command that meets none of the conditions records none. -/
def Obligations.OneErrorInPriorityOrder : Prop :=
  ∀ (c : Word) (s : State), s.err = 0#4 →
    let overrun : Prop := s.busy = true
    let illegal : Prop := ∃ why, decode c = .illegal why
    let empty : Prop := s.valid = false ∧ ∃ i, decode c = .legal i ∧
      i ∈ [.getbe, .getle, .getu32, .getu32be, .getu32le, .unpack, .crcpack]
    let width : Prop := s.wm1 ≠ 3#3 ∧ ∃ i, decode c = .legal i ∧ i ∈ [.getu32, .getu32be, .getu32le]
    (overrun → issue c s = { s with err := 4#4, errcmd := c }) ∧
    (¬ overrun → illegal → issue c s = { s with err := 1#4, errcmd := c }) ∧
    (¬ overrun → ¬ illegal → empty → issue c s = { s with err := 2#4, errcmd := c }) ∧
    (¬ overrun → ¬ illegal → ¬ empty → width → issue c s = { s with err := 3#4, errcmd := c }) ∧
    (¬ overrun → ¬ illegal → ¬ empty → ¬ width →
      (issue c s).err = 0#4 ∧ (issue c s).errcmd = s.errcmd ∧ (issue c s).merr = s.merr)

/-- R85: a CMD write while BUSY = 1 records OVERRUN for any word, legal or not (with an error already recorded it only
sets MERR, R80); the pending command is unaffected and completes as it would have. -/
def Obligations.OverrunDiscardsTheWord : Prop :=
  ∀ (c : Word) (s : State), s.busy = true →
    (s.err = 0#4 → issue c s = { s with err := 4#4, errcmd := c }) ∧
    (s.err ≠ 0#4 → issue c s = { s with merr := true }) ∧
    (∀ i t, exec i s = .next t → ∃ t', exec i (issue c s) = .next t' ∧ SameButErrors t t')

/-- R90: with an error recorded, a later one sets MERR and changes nothing else, and MERR stays 1 through every step but
ERRCLR (a host write of STATUS with bit 31 set) and reset. -/
def Obligations.LaterErrorsOnlySetMerr : Prop :=
  (∀ (c : Word) (s : State), s.err ≠ 0#4 →
    issue c s = { s with merr := true } ∨
      issue c s = { s with pend := some ⟨c, s.dataHi ++ s.dataLo⟩, busy := true }) ∧
  (∀ (c : Word) (s : State), s.err ≠ 0#4 →
    (s.busy = true ∨ (∃ why, decode c = .illegal why)) → issue c s = { s with merr := true }) ∧
  (∀ s t : State, s.merr = true → step s = .next t → t.merr = false →
    nextTurn s = .reset ∨ (nextTurn s = .host ∧
      ∃ v : Word, v.getLsbD 31 = true ∧ s.host.script[s.host.pos]? = some (.memWrite 0x04 4 v)))

/-- R89: ERRCLR. A host write of STATUS with bit 31 set clears ERR, MERR and ERRCMD; with bit 31 clear it has no effect;
bits 30 to 0 are ignored; the pending command is untouched, BUSY or not. -/
def Obligations.ErrClrClearsTheErrorRecord : Prop :=
  ∀ (s : State) (v : Word), nextTurn s = .host → s.host.script[s.host.pos]? = some (.memWrite 0x04 4 v) →
    step s = .next (if v.getLsbD 31 = true
      then { takeTurn s with err := 0#4, merr := false, errcmd := 0#32, host := { s.host with pos := s.host.pos + 1 } }
      else { takeTurn s with host := { s.host with pos := s.host.pos + 1 } })

/-- R88: a recorded error blocks nothing: two states that differ at most in ERR, MERR and ERRCMD accept the same
commands and complete them the same way. -/
def Obligations.RecordedErrorsBlockNothing : Prop :=
  ∀ s s' : State, SameButErrors s s' →
    (∀ c, SameButErrors (issue c s) (issue c s')) ∧
    (∀ i t, exec i s = .next t → ∃ t', exec i s' = .next t' ∧ SameButErrors t t')

/-- R53, R80, R87: no completion records an error, and no host read, DATA write or write of a read-only register does:
what changes ERR, MERR or ERRCMD in a step is a CMD write, ERRCLR or reset. -/
def Obligations.OnlyIssueErrClrAndResetTouchTheErrorRecord : Prop :=
  ∀ s t : State, step s = .next t →
    (t.err = s.err ∧ t.merr = s.merr ∧ t.errcmd = s.errcmd) ∨
    nextTurn s = .reset ∨
    (nextTurn s = .host ∧ ∃ v : Word, s.host.script[s.host.pos]? = some (.memWrite 0x08 4 v) ∨
      (v.getLsbD 31 = true ∧ s.host.script[s.host.pos]? = some (.memWrite 0x04 4 v)))

/-! The register window. -/

/-- R31: the accesses the block admits; on any other the host is stuck. -/
def Obligations.OnlyAlignedWordAccessesAreAdmitted : Prop :=
  ∀ (s : State) (off : Int) (n x : Nat) (v : Word),
    let isAdmitted : Prop := n = 4 ∧ 0 ≤ off ∧ off ≤ 0x7C ∧ off % 4 = 0
    (isAdmitted → (∃ t, execStmt (.memRead off n x) s = .next t) ∧ (∃ t, execStmt (.memWrite off n v) s = .next t)) ∧
    (¬ isAdmitted → execStmt (.memRead off n x) s = .fault .accessNotAdmitted ∧
      execStmt (.memWrite off n v) s = .fault .accessNotAdmitted)

/-- R32: BASE is a multiple of 128, and a host address reaches a register exactly when it is an aligned address of the
128-byte window. -/
def Obligations.WindowStandsAtBase : Prop :=
  Config.base % 128 = 0 ∧
  ∀ a : Nat, admitted (busOffset a) 4 = true ↔ (Config.base ≤ a ∧ a < Config.base + 128 ∧ a % 4 = 0)

/-- R35: the side effects of accesses. A read changes nothing of the block; a write of CMD issues, of STATUS performs
ERRCLR when bit 31 is set, of DATA_LO or DATA_HI sets it, and every other write is ignored. -/
def Obligations.SideEffectsOfAccesses : Prop :=
  ∀ (s : State) (off : Int), 0 ≤ off → off ≤ 0x7C → off % 4 = 0 →
    (∀ x, ∃ t, execStmt (.memRead off 4 x) s = .next t ∧ SameBlock s t) ∧
    (∀ v : Word, ∃ t, execStmt (.memWrite off 4 v) s = .next t ∧ t.host = { s.host with pos := s.host.pos + 1 } ∧
      (off = 0x08 → { t with host := s.host } = issue v s) ∧
      (off = 0x04 → v.getLsbD 31 = true → { t with host := s.host } = { s with err := 0#4, merr := false, errcmd := 0#32 }) ∧
      (off = 0x04 → v.getLsbD 31 = false → { t with host := s.host } = s) ∧
      (off = 0x10 → { t with host := s.host } = { s with dataLo := v }) ∧
      (off = 0x14 → { t with host := s.host } = { s with dataHi := v }) ∧
      (off ≠ 0x08 → off ≠ 0x04 → off ≠ 0x10 → off ≠ 0x14 → { t with host := s.host } = s))

/-- R14, R17, R19, R21 to R25, R30: what a read gives while BUSY = 0, offset by offset. (STATUS: see
`StatusWordFields`.) -/
def Obligations.IdleReadsGiveTheRegisters : Prop :=
  ∀ (s : State) (off : Int) (x : Nat), s.busy = false → 0 ≤ off → off ≤ 0x7C → off % 4 = 0 →
    ∃ h, execStmt (.memRead off 4 x) s = .next { s with host := h } ∧
      h.script = s.host.script ∧ h.pos = s.host.pos + 1 ∧
      (∀ y, y ≠ x → varValue y h.vars = varValue y s.host.vars) ∧
      (off = 0x00 → varValue x h.vars = 0x43524338#32) ∧
      (off = 0x04 → varValue x h.vars = statusWord s) ∧
      (off = 0x08 → varValue x h.vars = 0#32) ∧
      (off = 0x0C → varValue x h.vars = s.errcmd) ∧
      (off = 0x10 → varValue x h.vars = s.dataLo) ∧
      (off = 0x14 → varValue x h.vars = s.dataHi) ∧
      (off = 0x18 → varValue x h.vars = s.resLo) ∧
      (off = 0x1C → varValue x h.vars = s.resHi) ∧
      (off = 0x20 → varValue x h.vars = s.crc.setWidth 32) ∧
      (∀ k : Fin 8, off = 0x24 + 4 * (k.val : Int) → varValue x h.vars = (s.arr.get k).setWidth 32) ∧
      (0x44 ≤ off → varValue x h.vars = 0#32)

/-- R18: the fields of STATUS, every other bit 0. -/
def Obligations.StatusWordFields : Prop :=
  ∀ s : State,
    (statusWord s).getLsbD 0 = s.busy ∧ (statusWord s).getLsbD 1 = s.valid ∧
    (statusWord s).extractLsb' 2 3 = s.wm1 ∧ (statusWord s).getLsbD 5 = s.nle ∧
    (statusWord s).getLsbD 6 = s.merr ∧ (statusWord s).getLsbD 7 = false ∧
    (statusWord s).extractLsb' 8 4 = s.err ∧ (statusWord s).extractLsb' 12 20 = 0#20

/-- R55 (the draw is log 4's constant without a value): while BUSY = 1 a read of RES, CRC or ARR gives the read's own
free draw, of STATUS the true BUSY, NLE, MERR and ERR and drawn VALID and WM1, and every other read is true. -/
def Obligations.BusyReadsAreFreeDraws : Prop :=
  ∀ (s : State) (off : Int) (x : Nat), s.busy = true → 0 ≤ off → off ≤ 0x7C → off % 4 = 0 →
    ∃ h, execStmt (.memRead off 4 x) s = .next { s with host := h, readDraws := s.readDraws + 1 } ∧
      (0x18 ≤ off → off ≤ 0x40 → varValue x h.vars = Config.freeWord s.readDraws) ∧
      (off = 0x04 → ∀ b, b < 32 → (varValue x h.vars).getLsbD b =
        (if 1 ≤ b ∧ b ≤ 4 then Config.freeWord s.readDraws else statusWord s).getLsbD b) ∧
      (off = 0x00 → varValue x h.vars = 0x43524338#32) ∧
      (off = 0x08 → varValue x h.vars = 0#32) ∧
      (off = 0x0C → varValue x h.vars = s.errcmd) ∧
      (off = 0x10 → varValue x h.vars = s.dataLo) ∧
      (off = 0x14 → varValue x h.vars = s.dataHi) ∧
      (0x44 ≤ off → varValue x h.vars = 0#32)

/-! Reset. -/

/-- R28, R100: the reset event, from any state, with a command in flight or not, leaves every piece of the block's state
at the value of R28; so does `State.reset`, and NLE is not reset. That the host agent goes on as it was is the model's
choice and no rule of the spec (log 15, DESIGN CHOICE). -/
def Obligations.ResetEventSetsEveryRegister : Prop :=
  let atReset : State → Prop := fun t =>
    (∀ k, t.raw.get k = 0x00#8) ∧ t.valid = false ∧ t.wm1 = 0#3 ∧ t.crc = 0x00#8 ∧ t.dataHi ++ t.dataLo = 0#64 ∧
      t.resHi ++ t.resLo = 0#64 ∧ (∀ k, t.arr.get k = 0x00#8) ∧ t.busy = false ∧ t.err = 0#4 ∧ t.merr = false ∧
      t.errcmd = 0#32 ∧ t.pend = none ∧ trueValue .id t = 0x43524338#32
  (atReset State.reset ∧ State.reset.nle = Config.nativeLe) ∧
  ∀ s : State, nextTurn s = .reset → ∃ t, step s = .next t ∧ atReset t ∧ t.nle = s.nle ∧ t.host = s.host

/-- R14's reset column, R101: what the first read after the reset event gives. -/
def Obligations.FirstReadAfterReset : Prop :=
  ∀ (s t : State) (off : Int) (x : Nat), nextTurn s = .reset → step s = .next t →
    0 ≤ off → off ≤ 0x7C → off % 4 = 0 →
    ∃ u, execStmt (.memRead off 4 x) t = .next u ∧
      varValue x u.host.vars =
        (if off = 0x00 then 0x43524338#32 else if off = 0x04 ∧ s.nle = true then 0x00000020#32 else 0#32)

/-! The agents' steps. -/

/-- R53: on the engine's turn with BUSY = 1, the step is the meaning of the command PEND holds, with the turn taken. -/
def Obligations.StepRunsThePendingCommand : Prop :=
  ∀ (s : State) (c : Word) (d : Dword) (i : Instr), nextTurn s = .engine → s.busy = true →
    s.pend = some ⟨c, d⟩ → decode c = .legal i → step s = exec i (takeTurn s)

/-- R7, R47, R53: the other turns. The host's turn takes the statement at its position; a turn whose agent has no enabled
step passes (log 12); taking a turn removes it from the fixed turns, or counts a free one, and touches nothing else. -/
def Obligations.StepGivesEachAgentItsTurn : Prop :=
  (∀ (s : State) (st : Stmt), nextTurn s = .host → s.host.script[s.host.pos]? = some st →
    step s = execStmt st (takeTurn s)) ∧
  (∀ s : State, nextTurn s = .host → s.host.script.length ≤ s.host.pos → step s = .next (takeTurn s)) ∧
  (∀ s : State, nextTurn s = .engine → s.busy = false → step s = .next (takeTurn s)) ∧
  (∀ (s : State) (a : Turn) (rest : List Turn), s.sched.turns = a :: rest →
    nextTurn s = a ∧ takeTurn s = { s with sched := { s.sched with turns := rest } }) ∧
  (∀ s : State, s.sched.turns = [] →
    nextTurn s = Config.freeTurn s.sched.turnDraws ∧
      takeTurn s = { s with sched := { s.sched with turnDraws := s.sched.turnDraws + 1 } })

/-- The model's own convention, read from R53 and R26 (log 11, DEDUCED): R53 enables a completion when BUSY = 1, and R26
says PEND then holds a command. A meaning called with PEND empty is in neither rule; the model has it stop with the fault
pendEmpty, and a well-formed command's meaning stops so only there. -/
def Obligations.CompletionNeedsAPendingCommand : Prop :=
  ∀ (i : Instr) (s : State), i.wf = true → (exec i s = .fault .pendEmpty ↔ s.pend = none)

/-- R42, R48: a size the encoding cannot express has no meaning (log 13). -/
def Obligations.PackOfAnotherSizeIsRefused : Prop :=
  ∀ (w : Nat) (s : State), (w = 0 ∨ 9 ≤ w) → exec (.pack w) s = .refused .illFormed

/-! Results of the commands, each with its whole frame: every field not named keeps its value. -/

/-- R58: NOP completes and changes nothing but BUSY and PEND. -/
def Obligations.NopOnlyCompletes : Prop :=
  ∀ (s : State) (d : Dword), Pends s .nop d → exec .nop s = .next { s with pend := none, busy := false }

/-- R60: PACK w, with the snapshot d of PEND. -/
def Obligations.PackCapturesTheSnapshot : Prop :=
  ∀ (s : State) (w : Nat) (d : Dword), 1 ≤ w → w ≤ 8 → Pends s (.pack w) d →
    ∃ r : Lanes,
      exec (.pack w) s = .next
        { s with raw := r, wm1 := BitVec.ofNat 3 (w - 1), valid := true, pend := none, busy := false } ∧
      ∀ k : Fin 8, r.get k =
        (if k.val < w then (if s.nle = true then byteOf d k.val else byteOf d (w - 1 - k.val)) else 0x00#8)

/-- R62: GETBE. -/
def Obligations.GetBeWritesTheBigEndianArray : Prop :=
  ∀ (s : State) (d : Dword), Pends s .getbe d →
    ∃ a : Lanes,
      exec .getbe s = .next { s with arr := a, pend := none, busy := false } ∧
      ∀ k : Fin 8, a.get k =
        (if k.val < s.wm1.toNat + 1 then
          s.raw.toList.getD (if s.nle = true then s.wm1.toNat - k.val else k.val) 0#8 else 0x00#8)

/-- R63: GETLE. -/
def Obligations.GetLeWritesTheLittleEndianArray : Prop :=
  ∀ (s : State) (d : Dword), Pends s .getle d →
    ∃ a : Lanes,
      exec .getle s = .next { s with arr := a, pend := none, busy := false } ∧
      ∀ k : Fin 8, a.get k =
        (if k.val < s.wm1.toNat + 1 then
          s.raw.toList.getD (if s.nle = true then k.val else s.wm1.toNat - k.val) 0#8 else 0x00#8)

/-- R64: GETU32. -/
def Obligations.GetU32ReadsTheRawBytes : Prop :=
  ∀ (s : State) (d : Dword), Pends s .getu32 d →
    exec .getu32 s = .next { s with
      resLo := if s.nle = true then s.raw.b3 ++ s.raw.b2 ++ s.raw.b1 ++ s.raw.b0
        else s.raw.b0 ++ s.raw.b1 ++ s.raw.b2 ++ s.raw.b3,
      resHi := 0#32, pend := none, busy := false }

/-- R65, R66: GETU32BE and GETU32LE. Either native order gives the same word of the raw bytes. -/
def Obligations.GetU32BeAndLeReadTheArrays : Prop :=
  ∀ (s : State) (d : Dword),
    (Pends s .getu32be d → exec .getu32be s = .next { s with
      resLo := s.raw.b0 ++ s.raw.b1 ++ s.raw.b2 ++ s.raw.b3, resHi := 0#32, pend := none, busy := false }) ∧
    (Pends s .getu32le d → exec .getu32le s = .next { s with
      resLo := s.raw.b3 ++ s.raw.b2 ++ s.raw.b1 ++ s.raw.b0, resHi := 0#32, pend := none, busy := false })

/-- R67: UNPACK, the W raw bytes as a native-order integer, zero extended. -/
def Obligations.UnpackReturnsTheNativeInteger : Prop :=
  ∀ (s : State) (d : Dword), Pends s .unpack d →
    ∃ lo hi : Word,
      exec .unpack s = .next { s with resLo := lo, resHi := hi, pend := none, busy := false } ∧
      (hi ++ lo : Dword).toNat = ∑ k ∈ Finset.range (s.wm1.toNat + 1),
        (s.raw.toList.getD (if s.nle = true then k else s.wm1.toNat - k) 0#8).toNat * 2 ^ (8 * k)

/-- R73, R74, R75: the commands of the accumulator. -/
def Obligations.CrcCommandsAdvanceTheAccumulator : Prop :=
  ∀ (s : State) (d : Dword) (imm : Byte),
    (Pends s (.crcseed imm) d →
      exec (.crcseed imm) s = .next { s with crc := imm, pend := none, busy := false }) ∧
    (Pends s (.crcbyte imm) d →
      exec (.crcbyte imm) s = .next { s with crc := crcStep s.crc imm, pend := none, busy := false }) ∧
    (Pends s .crcpack d →
      exec .crcpack s = .next { s with
        crc := crcSeq s.crc ((List.range (s.wm1.toNat + 1)).map fun k =>
          s.raw.toList.getD (if s.nle = true then s.wm1.toNat - k else k) 0#8),
        pend := none, busy := false })

/-- R106: results are overwritten whole by the next command that writes them, whatever they held, and the commands of the
other groups leave them in place. -/
def Obligations.ResultsAreOverwrittenWholeOrLeft : Prop :=
  ∀ (i : Instr) (s t : State), exec i s = .next t →
    (if i ∈ [.getbe, .getle] then ∀ a, ∃ u, exec i { s with arr := a } = .next u ∧ u.arr = t.arr else t.arr = s.arr) ∧
    (if i ∈ [.getu32, .getu32be, .getu32le, .unpack] then
      ∀ lo hi, ∃ u, exec i { s with resLo := lo, resHi := hi } = .next u ∧ u.resLo = t.resLo ∧ u.resHi = t.resHi
      else t.resLo = s.resLo ∧ t.resHi = s.resHi) ∧
    ((∀ b, i ≠ .crcseed b) → (∀ b, i ≠ .crcbyte b) → i ≠ .crcpack → t.crc = s.crc) ∧
    (∀ b, i = .crcseed b → ∀ v, ∃ u, exec i { s with crc := v } = .next u ∧ u.crc = t.crc)

/-- The frame of a completion over the register window (R53, R14): every register outside the command's own group reads
as before, and in STATUS only BUSY changes, and VALID and WM1 under PACK. -/
def Obligations.CompletionLeavesTheOtherRegisters : Prop :=
  ∀ (i : Instr) (s t : State), exec i s = .next t →
    (∀ r ∈ [Reg.id, .cmd, .errcmd, .dataLo, .dataHi, .reserved], trueValue r t = trueValue r s) ∧
    (i ∉ [.getbe, .getle] → ∀ k, trueValue (.arr k) t = trueValue (.arr k) s) ∧
    (i ∉ [.getu32, .getu32be, .getu32le, .unpack] →
      trueValue .resLo t = trueValue .resLo s ∧ trueValue .resHi t = trueValue .resHi s) ∧
    ((∀ b, i ≠ .crcseed b) → (∀ b, i ≠ .crcbyte b) → i ≠ .crcpack → trueValue .crc t = trueValue .crc s) ∧
    ((∀ w, i ≠ .pack w) → SamePacker s t) ∧
    (∀ b, b < 32 → b ≠ 0 → ((∀ w, i ≠ .pack w) ∨ 5 ≤ b) →
      (trueValue .status t).getLsbD b = (trueValue .status s).getLsbD b) ∧
    t.busy = false ∧ t.pend = none ∧ t.host = s.host ∧ t.sched = s.sched ∧ t.readDraws = s.readDraws

/-! Whole-machine rules. -/

/-- R20, R23, R24, R25, R27: in one step the packer changes only by a PACK completion, RES, ARR and CRC only by a
completion of their own group, and all of them by reset. -/
def Obligations.OnlyCompletionsAndResetWriteResults : Prop :=
  ∀ s t : State, step s = .next t →
    nextTurn s = .reset ∨
    (SamePacker s t ∧ t.crc = s.crc ∧ t.resLo = s.resLo ∧ t.resHi = s.resHi ∧ t.arr = s.arr) ∨
    (nextTurn s = .engine ∧ s.busy = true ∧ ∃ p i, s.pend = some p ∧ decode p.word = .legal i ∧
      (SamePacker s t ∨ ∃ w, i = .pack w) ∧
      (t.crc = s.crc ∨ (∃ b, i = .crcseed b) ∨ (∃ b, i = .crcbyte b) ∨ i = .crcpack) ∧
      ((t.resLo = s.resLo ∧ t.resHi = s.resHi) ∨ i ∈ [.getu32, .getu32be, .getu32le, .unpack]) ∧
      (t.arr = s.arr ∨ i ∈ [.getbe, .getle]))

/-- R22, R27, R61: DATA changes only by a host write or reset; BUSY is set only by a CMD write and cleared only by a
completion or reset; VALID is set only by the completion of a PACK and cleared only by reset; NLE never changes. -/
def Obligations.WhatSetsAndClearsTheFlags : Prop :=
  ∀ s t : State, step s = .next t →
    t.nle = s.nle ∧
    (s.valid = true → t.valid = false → nextTurn s = .reset) ∧
    (s.valid = false → t.valid = true → nextTurn s = .engine ∧ s.busy = true ∧
      ∃ p w, s.pend = some p ∧ decode p.word = .legal (.pack w)) ∧
    (s.busy = false → t.busy = true → nextTurn s = .host ∧
      ∃ v : Word, s.host.script[s.host.pos]? = some (.memWrite 0x08 4 v)) ∧
    (s.busy = true → t.busy = false → nextTurn s = .engine ∨ nextTurn s = .reset) ∧
    (t.dataLo ≠ s.dataLo → nextTurn s = .reset ∨ (nextTurn s = .host ∧
      ∃ v : Word, s.host.script[s.host.pos]? = some (.memWrite 0x10 4 v))) ∧
    (t.dataHi ≠ s.dataHi → nextTurn s = .reset ∨ (nextTurn s = .host ∧
      ∃ v : Word, s.host.script[s.host.pos]? = some (.memWrite 0x14 4 v)))

/-- The invariant of Safety.lean at reset. -/
def Obligations.InvariantAtReset : Prop := BlockInv State.reset

/-- R20, R21, R26, R51, R81: every step keeps the invariant: PEND and BUSY agree, the pending command passed its checks,
ERR is 0 to 4, no MERR or ERRCMD without ERR, and the packer holds a value or is empty. -/
def Obligations.StepKeepsTheInvariant : Prop :=
  ∀ s t : State, BlockInv s → step s = .next t → BlockInv t

/-- R53, R54: in every state of the invariant, the engine's turn completes the pending command, whatever it is, and leaves
the block idle: nothing hangs with BUSY = 1 once the engine has its turn. -/
def Obligations.EngineTurnAlwaysCompletes : Prop :=
  ∀ s : State, BlockInv s → nextTurn s = .engine →
    ∃ t, step s = .next t ∧ t.busy = false ∧ t.pend = none ∧ BlockInv t

/-- R47, R31: a script whose accesses are admitted and whose branches have their labels never gets the host stuck. -/
def Obligations.WellFormedScriptsNeverGetStuck : Prop :=
  ∀ s : State, scriptOk s.host.script = true → nextTurn s = .host →
    ∃ t, step s = .next t ∧ t.host.script = s.host.script

/-- The canonical form of the host agent's variables (the model's own, INVENTORY.md): every step keeps it, and reset has
it. -/
def Obligations.HostVariablesStayInCanonicalForm : Prop :=
  varsOk State.reset.host.vars = true ∧
  ∀ s t : State, varsOk s.host.vars = true → step s = .next t → varsOk t.host.vars = true

/-- R54, R56, R57: any finite number of host turns may come between issue and completion. The command that is pending
stays the pending one, with its snapshot, through all of them, the results and the packer wait, and the engine's next
turn runs exactly that command. -/
def Obligations.PendingCommandSurvivesAnyNumberOfHostTurns : Prop :=
  ∀ (k : Nat) (s : State) (p : Pending) (i : Instr) (rest : List Turn),
    s.busy = true → s.pend = some p → decode p.word = .legal i → scriptOk s.host.script = true →
    s.sched.turns = List.replicate k .host ++ .engine :: rest →
    ∃ t : State, runSteps k s = .next t ∧
      t.busy = true ∧ t.pend = some p ∧ SamePacker s t ∧ t.crc = s.crc ∧
      t.resLo = s.resLo ∧ t.resHi = s.resHi ∧ t.arr = s.arr ∧ step t = exec i (takeTurn t)

/-- R57: PACK uses the DATA captured at issue. A host write of DATA while it is pending changes DATA at once and not what
PACK captures; no other command's result depends on DATA. -/
def Obligations.PackUsesTheDataOfIssue : Prop :=
  (∀ (s : State) (w : Nat) (lo hi : Word), 1 ≤ w → w ≤ 8 → s.busy = false →
    ∃ t, exec (.pack w) (((issue (encode (.pack w)) s).setDataLo lo).setDataHi hi) = .next t ∧
      Holds t (s.dataHi ++ s.dataLo) w ∧ t.dataLo = lo ∧ t.dataHi = hi) ∧
  (∀ (s : State) (lo v : Word), s.busy = true → ∃ t, execStmt (.memWrite 0x10 4 v) s = .next t ∧
    t.dataLo = v ∧ t.pend = s.pend ∧ t.busy = true ∧
    ∃ u, execStmt (.memWrite 0x14 4 lo) s = .next u ∧ u.dataHi = lo ∧ u.pend = s.pend ∧ u.busy = true) ∧
  (∀ (i : Instr) (s t : State) (lo hi : Word), exec i s = .next t →
    exec i { s with dataLo := lo, dataHi := hi } = .next { t with dataLo := lo, dataHi := hi })

/-! Laws of the packer. -/

/-- R68 item 1 (the source's "unpack(pack(v)) == v"): PACK w of d, then UNPACK on any later state whose packer is as PACK
left it, gives RES = zext_64(d[8w-1:0]). -/
def Obligations.UnpackOfPackIsTheValue : Prop :=
  ∀ (s t u : State) (w : Nat) (d e : Dword), 1 ≤ w → w ≤ 8 → Pends s (.pack w) d → exec (.pack w) s = .next t →
    SamePacker t u → Pends u .unpack e →
    ∃ x, exec .unpack u = .next x ∧ (x.resHi ++ x.resLo : Dword).toNat = d.toNat % 2 ^ (8 * w)

/-- R68 items 2 and 3, R62 and R63's closed forms: on a packer that holds v in w bytes, GETBE gives byte(v, w-1-k) and
GETLE byte(v, k), whatever the native order, so one array is the other reversed. -/
def Obligations.ByteArraysDoNotDependOnNativeOrder : Prop :=
  ∀ (s : State) (v d : Dword) (w : Nat), Holds s v w →
    (Pends s .getbe d → ∃ t, exec .getbe s = .next t ∧
      ∀ k : Fin 8, t.arr.get k = (if k.val < w then byteOf v (w - 1 - k.val) else 0x00#8)) ∧
    (Pends s .getle d → ∃ t, exec .getle s = .next t ∧
      ∀ k : Fin 8, t.arr.get k = (if k.val < w then byteOf v k.val else 0x00#8))

/-- R68 item 4, R64 to R66's closed forms: on a packer that holds v in 4 bytes, V = v[31:0]. -/
def Obligations.WordAccessorsOfAFourByteValue : Prop :=
  ∀ (s : State) (v d : Dword), Holds s v 4 →
    let V : Word := v.extractLsb' 0 32
    (Pends s .getu32 d → ∃ t, exec .getu32 s = .next t ∧ t.resLo = V ∧ t.resHi = 0#32) ∧
    (Pends s .getu32be d → ∃ t, exec .getu32be s = .next t ∧ t.resHi = 0#32 ∧
      t.resLo = (if s.nle = true then bswap32 V else V)) ∧
    (Pends s .getu32le d → ∃ t, exec .getu32le s = .next t ∧ t.resHi = 0#32 ∧
      t.resLo = (if s.nle = true then V else bswap32 V)) ∧
    bswap32 (bswap32 V) = V

/-- R11: "from_nat(nat_bytes(V, W), W) = V for every W-byte V". -/
def Obligations.NativeBytesReadBackTheValue : Prop :=
  ∀ (le : Bool) (v : Dword) (w : Nat), w ≤ 8 → fromNat le (natBytes le v w) = v.toNat % 2 ^ (8 * w)

/-! Laws of the accumulator. -/

/-- R72: the table form, with the table's entries at the eight single-bit bytes (95_test_vectors.md 2.7), which with
`CrcIsLinear` give every other entry. -/
def Obligations.CrcStepIsATableLookup : Prop :=
  (∀ c b : Byte, crcStep c b = crcTable (c ^^^ b)) ∧
  crcTable 0x00#8 = 0x00#8 ∧
  crcTable 0x01#8 = 0x31#8 ∧ crcTable 0x02#8 = 0x62#8 ∧ crcTable 0x04#8 = 0xC4#8 ∧ crcTable 0x08#8 = 0xB9#8 ∧
  crcTable 0x10#8 = 0x43#8 ∧ crcTable 0x20#8 = 0x86#8 ∧ crcTable 0x40#8 = 0x3D#8 ∧ crcTable 0x80#8 = 0x7A#8

/-- R70: eight times, bit 7 is tested and the register shifted left by one, with 0x31 xored in when the bit was 1; the data
byte is xored into the whole register first. R71: the first byte is folded first, and no data leave the seed. -/
def Obligations.CrcIsTheShiftRegister : Prop :=
  let shift : Byte → Byte := fun x => if x.getLsbD 7 = true then (x <<< 1) ^^^ 0x31#8 else x <<< 1
  (∀ c b : Byte,
    crcStep c b = shift (shift (shift (shift (shift (shift (shift (shift (c ^^^ b))))))))) ∧
  (∀ s : Byte, crcSeq s [] = s) ∧
  (∀ (s b : Byte) (data : List Byte), crcSeq s (b :: data) = crcSeq (crcStep s b) data)

/-- R70's last sentences, which the spec marks as general knowledge: crc_step is the remainder of polynomial division over
GF(2) by x^8 + x^5 + x^4 + 1 (0x131): c ^ b, shifted up by eight, is a multiple of 0x131 plus an 8-bit remainder, and the
remainder is crc_step(c, b). -/
def Obligations.CrcIsThePolynomialRemainder : Prop :=
  ∀ c b r : Byte,
    (∃ q : Byte, (c ^^^ b).setWidth 16 <<< 8 = gf2Mul q 0x131#16 ^^^ r.setWidth 16) ↔ r = crcStep c b

/-- R79 items 2 and 3: zero data from seed zero gives zero; linearity over GF(2). -/
def Obligations.CrcIsLinear : Prop :=
  (∀ k, crcSeq 0#8 (List.replicate k 0#8) = 0#8) ∧
  (∀ (s : Byte) (d : List Byte), crcSeq s d = crcSeq s (List.replicate d.length 0#8) ^^^ crcSeq 0#8 d) ∧
  (∀ (s₁ s₂ : Byte) (k : Nat), crcSeq (s₁ ^^^ s₂) (List.replicate k 0#8) =
    crcSeq s₁ (List.replicate k 0#8) ^^^ crcSeq s₂ (List.replicate k 0#8))

/-- R79 item 4: "appending the CRC to its own data gives 0". -/
def Obligations.CrcOfDataAndItsCrcIsZero : Prop :=
  ∀ (s : Byte) (d : List Byte), crcSeq s (d ++ [crcSeq s d]) = 0#8

/-- R70, R72 (derived: the table T of 95_test_vectors.md 2.7 is a permutation): for each seed, different bytes give
different CRCs, so the accumulator loses no single-byte difference. -/
def Obligations.CrcStepLosesNoByte : Prop :=
  ∀ c b b' : Byte, crcStep c b = crcStep c b' → b = b'

/-- R75, R79 item 5: CRCPACK folds byte(v, w-1) down to byte(v, 0), and the native order does not matter. -/
def Obligations.CrcPackFoldsTheBigEndianBytes : Prop :=
  ∀ (s : State) (v d : Dword) (w : Nat), Holds s v w → Pends s .crcpack d →
    ∃ t, exec .crcpack s = .next t ∧
      t.crc = crcSeq s.crc ((List.range w).map fun k => byteOf v (w - 1 - k))

/-- R77, R78: the fold is the CRC from seed 0x00 of the arguments' big-endian bytes, last argument first; crc8 of one
value is the fold of one; crc8Fold(a, b) = computeCrc8(computeCrc8(0, bytes(b)), bytes(a)). -/
def Obligations.FoldIsRightToLeft : Prop :=
  (∀ args : List (Nat × Dword),
    crcFold args = crcSeq 0#8 ((args.reverse.map fun a => valueBytes a.2 a.1).flatten)) ∧
  (∀ (w : Nat) (v : Dword), crcFold [(w, v)] = crcSeq 0#8 (valueBytes v w)) ∧
  (∀ (w₁ w₂ : Nat) (v₁ v₂ : Dword), crcFold [(w₁, v₁), (w₂, v₂)] =
    crcSeq (crcSeq 0#8 (valueBytes v₂ w₂)) (valueBytes v₁ w₁))

/-- R76 (computeCrc8), R79 item 5: from any idle block, whatever errors are recorded, CRCSEED s followed by one CRCBYTE
for each byte leaves crc_seq(s, data) in CRC and everything else as it was. -/
def Obligations.CommandSequenceComputesCrc8 : Prop :=
  ∀ (s : State) (seed : Byte) (data : List Byte), s.busy = false → s.pend = none →
    serveAll (.crcseed seed :: data.map .crcbyte) s = .next { s with crc := crcSeq seed data }

/-- R77 (crc8Fold, "n >= 1 required"): from any idle block, CRCSEED 0x00 and then, from the last argument to the first, loading, packing and
CRCPACK of each argument leave the fold in CRC, and record no error. -/
def Obligations.CommandSequenceComputesTheFold : Prop :=
  ∀ (s : State) (args : List (Nat × Dword)), s.busy = false → s.pend = none →
    args ≠ [] → (∀ a ∈ args, 1 ≤ a.1 ∧ a.1 ≤ 8) →
    ∃ t, serveFold args s = .next t ∧ t.crc = crcFold args ∧ t.busy = false ∧ t.pend = none ∧
      t.err = s.err ∧ t.merr = s.merr ∧ t.errcmd = s.errcmd ∧ t.arr = s.arr ∧
      t.resLo = s.resLo ∧ t.resHi = s.resHi
end

