-- ==== Sys2Proof/Laws/Decode.lean ====
section
/-! SUPPORT. The fields of a command word (30_encoding.md R41). -/

namespace Sys2Proof

/-- A command word is its four fields, RSV in the high bits (R41). -/
theorem command_fields (c : Word) :
    c = (rsvField c ++ wm1Field c ++ immField c ++ opcField c : BitVec 32) := by
  unfold rsvField wm1Field immField opcField
  apply BitVec.eq_of_getLsbD_eq
  intro i hi
  simp only [BitVec.getLsbD_append, BitVec.getLsbD_extractLsb']
  split_ifs with h1 h2 h3
  · simp [h1]
  · simp [show i - 8 < 8 by omega, show 8 + (i - 8) = i by omega]
  · simp [show i - 8 - 8 < 3 by omega, show 16 + (i - 8 - 8) = i by omega]
  · simp [show i - 8 - 8 - 3 < 13 by omega, show 19 + (i - 8 - 8 - 3) = i by omega]

/-- The fields of a masked word are the masked fields (R43: a row's mask covers whole fields). -/
theorem fields_and (c m : Word) :
    opcField (c &&& m) = opcField c &&& opcField m ∧ immField (c &&& m) = immField c &&& immField m ∧
      wm1Field (c &&& m) = wm1Field c &&& wm1Field m ∧ rsvField (c &&& m) = rsvField c &&& rsvField m := by
  refine ⟨?_, ?_, ?_, ?_⟩ <;> (simp only [opcField, immField, wm1Field, rsvField]; ext i hi; simp)

/-- A word is illegal exactly when it is no command's (R44). -/
theorem illegal_iff_not_legal (c : Word) : (∃ why, decode c = .illegal why) ↔ ¬ ∃ i, decode c = .legal i := by
  cases decode c <;> simp

end Sys2Proof
end

