-- ==== Sys2Proof/Laws/Operands.lean ====
section
/-! SUPPORT. The byte arithmetic of Machine/Operands.lean: lengths, the zero-filled lanes, the two byte orders, and what
the packer's raw bytes are when it holds a value. -/

namespace Sys2Proof.Machine

@[simp] theorem rev_rev (a : List Byte) : rev (rev a) = a := List.reverse_reverse a

@[simp] theorem rev_length (a : List Byte) : (rev a).length = a.length := List.length_reverse

@[simp] theorem bytesLsbFirst_length (v : Dword) (w : Nat) : (bytesLsbFirst v w).length = w := by
  simp [bytesLsbFirst]

@[simp] theorem natBytes_length (le : Bool) (v : Dword) (w : Nat) : (natBytes le v w).length = w := by
  cases le <;> simp [natBytes]

@[simp] theorem toList_length (l : Lanes) : l.toList.length = 8 := rfl

/-- The lanes' list has the elements `get` names. -/
theorem toList_getElem (l : Lanes) (i : Fin 8) : l.toList[i.val]'(by simp) = l.get i := by
  fin_cases i <;> rfl

/-- Element i of filled lanes is element i of the list, or 0x00 above its length (R25). -/
theorem get_fill (a : List Byte) (i : Fin 8) : (Lanes.fill a).get i = a.getD i.val 0#8 := by
  fin_cases i <;> rfl

/-- The first elements of filled lanes are the list itself (R20: RAW[0..W-1] are the value's bytes). -/
theorem take_fill (a : List Byte) (h : a.length ≤ 8) : (Lanes.fill a).toList.take a.length = a := by
  apply List.ext_getElem
  · simp [h]
  · intro i h1 h2
    have h8 : i < 8 := by omega
    have hg := (toList_getElem (Lanes.fill a) ⟨i, h8⟩).trans (get_fill a ⟨i, h8⟩)
    rw [List.getElem_take]
    exact hg.trans (by simp [h2])

/-- Two lanes with the same elements are the same. -/
theorem lanes_ext {a b : Lanes} (h : ∀ i, a.get i = b.get i) : a = b := by
  cases a; cases b
  simpa [Lanes.get] using And.intro (h 0) (And.intro (h 1) (And.intro (h 2) (And.intro (h 3)
    (And.intro (h 4) (And.intro (h 5) (And.intro (h 6) (h 7)))))))

/-- The big-endian array of native-order bytes does not depend on the native order (R62, R68 item 3). -/
@[simp] theorem bigEndian_natBytes (le : Bool) (v : Dword) (w : Nat) :
    bigEndian le (natBytes le v w) = valueBytes v w := by
  cases le <;> simp [bigEndian, natBytes, valueBytes]

/-- Nor does the little-endian array (R63, R68 item 3). -/
@[simp] theorem littleEndian_natBytes (le : Bool) (v : Dword) (w : Nat) :
    littleEndian le (natBytes le v w) = bytesLsbFirst v w := by
  cases le <;> simp [littleEndian, natBytes]

/-- Native-order bytes read back in native order are the value's bytes summed, least significant first. -/
@[simp] theorem fromNat_natBytes (le : Bool) (v : Dword) (w : Nat) :
    fromNat le (natBytes le v w) = sumLsbFirst (bytesLsbFirst v w) := by
  cases le <;> simp [fromNat, natBytes]

/-- A packed size the encoding expresses is 1 to 8. -/
theorem sizeOk_iff (w : Nat) : sizeOk w = true ↔ 1 ≤ w ∧ w ≤ 8 :=
  decide_eq_true_iff

/-- A packer that holds a value of w bytes has packed size w (R29). -/
theorem packedSize_of_holds {s : State} {v : Dword} {w : Nat} (h : Holds s v w) : s.packedSize = w := by
  obtain ⟨hw, -, hm, -⟩ := h
  obtain ⟨h1, h8⟩ := (sizeOk_iff w).1 hw
  simp only [State.packedSize, hm, BitVec.toNat_ofNat]
  omega

/-- A packer that holds a value of w bytes has its native-order bytes as raw bytes (R20). -/
theorem rawBytes_of_holds {s : State} {v : Dword} {w : Nat} (h : Holds s v w) :
    s.rawBytes w = natBytes s.nle v w := by
  obtain ⟨hw, -, -, hr⟩ := h
  obtain ⟨-, h8⟩ := (sizeOk_iff w).1 hw
  have := take_fill (natBytes s.nle v w) (by simpa using h8)
  simpa [State.rawBytes, hr] using this

/-- A byte shifted eight times is the same whether it entered as seed or as data (R72). -/
theorem crcStep_comm (c b : Byte) : crcStep c b = crcStep b c := by
  simp [crcStep, BitVec.xor_comm]

/-- One shift in GF(2) form: a left shift, and the polynomial if bit 7 was set (R70). -/
theorem crcShift_eq : ∀ x : Byte, crcShift x = (x <<< 1) ^^^ (if x.msb then Config.poly else 0#8) := by
  decide +kernel

@[simp] theorem crcSeq_nil (s : Byte) : crcSeq s [] = s := rfl

@[simp] theorem crcSeq_cons (s b : Byte) (d : List Byte) : crcSeq s (b :: d) = crcSeq (crcStep s b) d := rfl

/-- Chaining seeds is concatenating the byte sequences (R71). -/
theorem crcSeq_append (s : Byte) (d e : List Byte) : crcSeq s (d ++ e) = crcSeq (crcSeq s d) e := by
  simp [crcSeq]

end Sys2Proof.Machine
end

