-- ==== Sys2Proof/Laws/State.lean ====
section
/-! SUPPORT. One lemma per field per update of the state: what each named write of Machine/Ops.lean puts into each field. -/

namespace Sys2Proof.Machine

section Fields

variable (s : State)

@[simp] theorem loadPacker_raw (b : List Byte) (w : Nat) : (s.loadPacker b w).raw = Lanes.fill b := rfl
@[simp] theorem loadPacker_valid (b : List Byte) (w : Nat) : (s.loadPacker b w).valid = true := rfl
@[simp] theorem loadPacker_wm1 (b : List Byte) (w : Nat) : (s.loadPacker b w).wm1 = BitVec.ofNat 3 (w - 1) := rfl
@[simp] theorem loadPacker_crc (b : List Byte) (w : Nat) : (s.loadPacker b w).crc = s.crc := rfl
@[simp] theorem loadPacker_dataLo (b : List Byte) (w : Nat) : (s.loadPacker b w).dataLo = s.dataLo := rfl
@[simp] theorem loadPacker_dataHi (b : List Byte) (w : Nat) : (s.loadPacker b w).dataHi = s.dataHi := rfl
@[simp] theorem loadPacker_resLo (b : List Byte) (w : Nat) : (s.loadPacker b w).resLo = s.resLo := rfl
@[simp] theorem loadPacker_resHi (b : List Byte) (w : Nat) : (s.loadPacker b w).resHi = s.resHi := rfl
@[simp] theorem loadPacker_arr (b : List Byte) (w : Nat) : (s.loadPacker b w).arr = s.arr := rfl
@[simp] theorem loadPacker_busy (b : List Byte) (w : Nat) : (s.loadPacker b w).busy = s.busy := rfl
@[simp] theorem loadPacker_err (b : List Byte) (w : Nat) : (s.loadPacker b w).err = s.err := rfl
@[simp] theorem loadPacker_merr (b : List Byte) (w : Nat) : (s.loadPacker b w).merr = s.merr := rfl
@[simp] theorem loadPacker_errcmd (b : List Byte) (w : Nat) : (s.loadPacker b w).errcmd = s.errcmd := rfl
@[simp] theorem loadPacker_pend (b : List Byte) (w : Nat) : (s.loadPacker b w).pend = s.pend := rfl
@[simp] theorem loadPacker_nle (b : List Byte) (w : Nat) : (s.loadPacker b w).nle = s.nle := rfl
@[simp] theorem loadPacker_host (b : List Byte) (w : Nat) : (s.loadPacker b w).host = s.host := rfl
@[simp] theorem loadPacker_sched (b : List Byte) (w : Nat) : (s.loadPacker b w).sched = s.sched := rfl
@[simp] theorem loadPacker_readDraws (b : List Byte) (w : Nat) : (s.loadPacker b w).readDraws = s.readDraws := rfl

@[simp] theorem setArr_raw (b : List Byte) : (s.setArr b).raw = s.raw := rfl
@[simp] theorem setArr_valid (b : List Byte) : (s.setArr b).valid = s.valid := rfl
@[simp] theorem setArr_wm1 (b : List Byte) : (s.setArr b).wm1 = s.wm1 := rfl
@[simp] theorem setArr_crc (b : List Byte) : (s.setArr b).crc = s.crc := rfl
@[simp] theorem setArr_dataLo (b : List Byte) : (s.setArr b).dataLo = s.dataLo := rfl
@[simp] theorem setArr_dataHi (b : List Byte) : (s.setArr b).dataHi = s.dataHi := rfl
@[simp] theorem setArr_resLo (b : List Byte) : (s.setArr b).resLo = s.resLo := rfl
@[simp] theorem setArr_resHi (b : List Byte) : (s.setArr b).resHi = s.resHi := rfl
@[simp] theorem setArr_arr (b : List Byte) : (s.setArr b).arr = Lanes.fill b := rfl
@[simp] theorem setArr_busy (b : List Byte) : (s.setArr b).busy = s.busy := rfl
@[simp] theorem setArr_err (b : List Byte) : (s.setArr b).err = s.err := rfl
@[simp] theorem setArr_merr (b : List Byte) : (s.setArr b).merr = s.merr := rfl
@[simp] theorem setArr_errcmd (b : List Byte) : (s.setArr b).errcmd = s.errcmd := rfl
@[simp] theorem setArr_pend (b : List Byte) : (s.setArr b).pend = s.pend := rfl
@[simp] theorem setArr_nle (b : List Byte) : (s.setArr b).nle = s.nle := rfl
@[simp] theorem setArr_host (b : List Byte) : (s.setArr b).host = s.host := rfl
@[simp] theorem setArr_sched (b : List Byte) : (s.setArr b).sched = s.sched := rfl
@[simp] theorem setArr_readDraws (b : List Byte) : (s.setArr b).readDraws = s.readDraws := rfl

@[simp] theorem setRes_raw (lo hi : Word) : (s.setRes lo hi).raw = s.raw := rfl
@[simp] theorem setRes_valid (lo hi : Word) : (s.setRes lo hi).valid = s.valid := rfl
@[simp] theorem setRes_wm1 (lo hi : Word) : (s.setRes lo hi).wm1 = s.wm1 := rfl
@[simp] theorem setRes_crc (lo hi : Word) : (s.setRes lo hi).crc = s.crc := rfl
@[simp] theorem setRes_dataLo (lo hi : Word) : (s.setRes lo hi).dataLo = s.dataLo := rfl
@[simp] theorem setRes_dataHi (lo hi : Word) : (s.setRes lo hi).dataHi = s.dataHi := rfl
@[simp] theorem setRes_resLo (lo hi : Word) : (s.setRes lo hi).resLo = lo := rfl
@[simp] theorem setRes_resHi (lo hi : Word) : (s.setRes lo hi).resHi = hi := rfl
@[simp] theorem setRes_arr (lo hi : Word) : (s.setRes lo hi).arr = s.arr := rfl
@[simp] theorem setRes_busy (lo hi : Word) : (s.setRes lo hi).busy = s.busy := rfl
@[simp] theorem setRes_err (lo hi : Word) : (s.setRes lo hi).err = s.err := rfl
@[simp] theorem setRes_merr (lo hi : Word) : (s.setRes lo hi).merr = s.merr := rfl
@[simp] theorem setRes_errcmd (lo hi : Word) : (s.setRes lo hi).errcmd = s.errcmd := rfl
@[simp] theorem setRes_pend (lo hi : Word) : (s.setRes lo hi).pend = s.pend := rfl
@[simp] theorem setRes_nle (lo hi : Word) : (s.setRes lo hi).nle = s.nle := rfl
@[simp] theorem setRes_host (lo hi : Word) : (s.setRes lo hi).host = s.host := rfl
@[simp] theorem setRes_sched (lo hi : Word) : (s.setRes lo hi).sched = s.sched := rfl
@[simp] theorem setRes_readDraws (lo hi : Word) : (s.setRes lo hi).readDraws = s.readDraws := rfl

@[simp] theorem setCrc_raw (v : Byte) : (s.setCrc v).raw = s.raw := rfl
@[simp] theorem setCrc_valid (v : Byte) : (s.setCrc v).valid = s.valid := rfl
@[simp] theorem setCrc_wm1 (v : Byte) : (s.setCrc v).wm1 = s.wm1 := rfl
@[simp] theorem setCrc_crc (v : Byte) : (s.setCrc v).crc = v := rfl
@[simp] theorem setCrc_dataLo (v : Byte) : (s.setCrc v).dataLo = s.dataLo := rfl
@[simp] theorem setCrc_dataHi (v : Byte) : (s.setCrc v).dataHi = s.dataHi := rfl
@[simp] theorem setCrc_resLo (v : Byte) : (s.setCrc v).resLo = s.resLo := rfl
@[simp] theorem setCrc_resHi (v : Byte) : (s.setCrc v).resHi = s.resHi := rfl
@[simp] theorem setCrc_arr (v : Byte) : (s.setCrc v).arr = s.arr := rfl
@[simp] theorem setCrc_busy (v : Byte) : (s.setCrc v).busy = s.busy := rfl
@[simp] theorem setCrc_err (v : Byte) : (s.setCrc v).err = s.err := rfl
@[simp] theorem setCrc_merr (v : Byte) : (s.setCrc v).merr = s.merr := rfl
@[simp] theorem setCrc_errcmd (v : Byte) : (s.setCrc v).errcmd = s.errcmd := rfl
@[simp] theorem setCrc_pend (v : Byte) : (s.setCrc v).pend = s.pend := rfl
@[simp] theorem setCrc_nle (v : Byte) : (s.setCrc v).nle = s.nle := rfl
@[simp] theorem setCrc_host (v : Byte) : (s.setCrc v).host = s.host := rfl
@[simp] theorem setCrc_sched (v : Byte) : (s.setCrc v).sched = s.sched := rfl
@[simp] theorem setCrc_readDraws (v : Byte) : (s.setCrc v).readDraws = s.readDraws := rfl

@[simp] theorem setDataLo_raw (v : Word) : (s.setDataLo v).raw = s.raw := rfl
@[simp] theorem setDataLo_valid (v : Word) : (s.setDataLo v).valid = s.valid := rfl
@[simp] theorem setDataLo_wm1 (v : Word) : (s.setDataLo v).wm1 = s.wm1 := rfl
@[simp] theorem setDataLo_crc (v : Word) : (s.setDataLo v).crc = s.crc := rfl
@[simp] theorem setDataLo_dataLo (v : Word) : (s.setDataLo v).dataLo = v := rfl
@[simp] theorem setDataLo_dataHi (v : Word) : (s.setDataLo v).dataHi = s.dataHi := rfl
@[simp] theorem setDataLo_resLo (v : Word) : (s.setDataLo v).resLo = s.resLo := rfl
@[simp] theorem setDataLo_resHi (v : Word) : (s.setDataLo v).resHi = s.resHi := rfl
@[simp] theorem setDataLo_arr (v : Word) : (s.setDataLo v).arr = s.arr := rfl
@[simp] theorem setDataLo_busy (v : Word) : (s.setDataLo v).busy = s.busy := rfl
@[simp] theorem setDataLo_err (v : Word) : (s.setDataLo v).err = s.err := rfl
@[simp] theorem setDataLo_merr (v : Word) : (s.setDataLo v).merr = s.merr := rfl
@[simp] theorem setDataLo_errcmd (v : Word) : (s.setDataLo v).errcmd = s.errcmd := rfl
@[simp] theorem setDataLo_pend (v : Word) : (s.setDataLo v).pend = s.pend := rfl
@[simp] theorem setDataLo_nle (v : Word) : (s.setDataLo v).nle = s.nle := rfl
@[simp] theorem setDataLo_host (v : Word) : (s.setDataLo v).host = s.host := rfl
@[simp] theorem setDataLo_sched (v : Word) : (s.setDataLo v).sched = s.sched := rfl
@[simp] theorem setDataLo_readDraws (v : Word) : (s.setDataLo v).readDraws = s.readDraws := rfl

@[simp] theorem setDataHi_raw (v : Word) : (s.setDataHi v).raw = s.raw := rfl
@[simp] theorem setDataHi_valid (v : Word) : (s.setDataHi v).valid = s.valid := rfl
@[simp] theorem setDataHi_wm1 (v : Word) : (s.setDataHi v).wm1 = s.wm1 := rfl
@[simp] theorem setDataHi_crc (v : Word) : (s.setDataHi v).crc = s.crc := rfl
@[simp] theorem setDataHi_dataLo (v : Word) : (s.setDataHi v).dataLo = s.dataLo := rfl
@[simp] theorem setDataHi_dataHi (v : Word) : (s.setDataHi v).dataHi = v := rfl
@[simp] theorem setDataHi_resLo (v : Word) : (s.setDataHi v).resLo = s.resLo := rfl
@[simp] theorem setDataHi_resHi (v : Word) : (s.setDataHi v).resHi = s.resHi := rfl
@[simp] theorem setDataHi_arr (v : Word) : (s.setDataHi v).arr = s.arr := rfl
@[simp] theorem setDataHi_busy (v : Word) : (s.setDataHi v).busy = s.busy := rfl
@[simp] theorem setDataHi_err (v : Word) : (s.setDataHi v).err = s.err := rfl
@[simp] theorem setDataHi_merr (v : Word) : (s.setDataHi v).merr = s.merr := rfl
@[simp] theorem setDataHi_errcmd (v : Word) : (s.setDataHi v).errcmd = s.errcmd := rfl
@[simp] theorem setDataHi_pend (v : Word) : (s.setDataHi v).pend = s.pend := rfl
@[simp] theorem setDataHi_nle (v : Word) : (s.setDataHi v).nle = s.nle := rfl
@[simp] theorem setDataHi_host (v : Word) : (s.setDataHi v).host = s.host := rfl
@[simp] theorem setDataHi_sched (v : Word) : (s.setDataHi v).sched = s.sched := rfl
@[simp] theorem setDataHi_readDraws (v : Word) : (s.setDataHi v).readDraws = s.readDraws := rfl

@[simp] theorem accept_raw (c : Word) : (s.accept c).raw = s.raw := rfl
@[simp] theorem accept_valid (c : Word) : (s.accept c).valid = s.valid := rfl
@[simp] theorem accept_wm1 (c : Word) : (s.accept c).wm1 = s.wm1 := rfl
@[simp] theorem accept_crc (c : Word) : (s.accept c).crc = s.crc := rfl
@[simp] theorem accept_dataLo (c : Word) : (s.accept c).dataLo = s.dataLo := rfl
@[simp] theorem accept_dataHi (c : Word) : (s.accept c).dataHi = s.dataHi := rfl
@[simp] theorem accept_resLo (c : Word) : (s.accept c).resLo = s.resLo := rfl
@[simp] theorem accept_resHi (c : Word) : (s.accept c).resHi = s.resHi := rfl
@[simp] theorem accept_arr (c : Word) : (s.accept c).arr = s.arr := rfl
@[simp] theorem accept_busy (c : Word) : (s.accept c).busy = true := rfl
@[simp] theorem accept_err (c : Word) : (s.accept c).err = s.err := rfl
@[simp] theorem accept_merr (c : Word) : (s.accept c).merr = s.merr := rfl
@[simp] theorem accept_errcmd (c : Word) : (s.accept c).errcmd = s.errcmd := rfl
@[simp] theorem accept_pend (c : Word) : (s.accept c).pend = some ⟨c, s.data⟩ := rfl
@[simp] theorem accept_nle (c : Word) : (s.accept c).nle = s.nle := rfl
@[simp] theorem accept_host (c : Word) : (s.accept c).host = s.host := rfl
@[simp] theorem accept_sched (c : Word) : (s.accept c).sched = s.sched := rfl
@[simp] theorem accept_readDraws (c : Word) : (s.accept c).readDraws = s.readDraws := rfl

@[simp] theorem retire_raw : (s.retire).raw = s.raw := rfl
@[simp] theorem retire_valid : (s.retire).valid = s.valid := rfl
@[simp] theorem retire_wm1 : (s.retire).wm1 = s.wm1 := rfl
@[simp] theorem retire_crc : (s.retire).crc = s.crc := rfl
@[simp] theorem retire_dataLo : (s.retire).dataLo = s.dataLo := rfl
@[simp] theorem retire_dataHi : (s.retire).dataHi = s.dataHi := rfl
@[simp] theorem retire_resLo : (s.retire).resLo = s.resLo := rfl
@[simp] theorem retire_resHi : (s.retire).resHi = s.resHi := rfl
@[simp] theorem retire_arr : (s.retire).arr = s.arr := rfl
@[simp] theorem retire_busy : (s.retire).busy = false := rfl
@[simp] theorem retire_err : (s.retire).err = s.err := rfl
@[simp] theorem retire_merr : (s.retire).merr = s.merr := rfl
@[simp] theorem retire_errcmd : (s.retire).errcmd = s.errcmd := rfl
@[simp] theorem retire_pend : (s.retire).pend = none := rfl
@[simp] theorem retire_nle : (s.retire).nle = s.nle := rfl
@[simp] theorem retire_host : (s.retire).host = s.host := rfl
@[simp] theorem retire_sched : (s.retire).sched = s.sched := rfl
@[simp] theorem retire_readDraws : (s.retire).readDraws = s.readDraws := rfl

@[simp] theorem recordFirst_raw (e : BitVec 4) (c : Word) : (s.recordFirst e c).raw = s.raw := rfl
@[simp] theorem recordFirst_valid (e : BitVec 4) (c : Word) : (s.recordFirst e c).valid = s.valid := rfl
@[simp] theorem recordFirst_wm1 (e : BitVec 4) (c : Word) : (s.recordFirst e c).wm1 = s.wm1 := rfl
@[simp] theorem recordFirst_crc (e : BitVec 4) (c : Word) : (s.recordFirst e c).crc = s.crc := rfl
@[simp] theorem recordFirst_dataLo (e : BitVec 4) (c : Word) : (s.recordFirst e c).dataLo = s.dataLo := rfl
@[simp] theorem recordFirst_dataHi (e : BitVec 4) (c : Word) : (s.recordFirst e c).dataHi = s.dataHi := rfl
@[simp] theorem recordFirst_resLo (e : BitVec 4) (c : Word) : (s.recordFirst e c).resLo = s.resLo := rfl
@[simp] theorem recordFirst_resHi (e : BitVec 4) (c : Word) : (s.recordFirst e c).resHi = s.resHi := rfl
@[simp] theorem recordFirst_arr (e : BitVec 4) (c : Word) : (s.recordFirst e c).arr = s.arr := rfl
@[simp] theorem recordFirst_busy (e : BitVec 4) (c : Word) : (s.recordFirst e c).busy = s.busy := rfl
@[simp] theorem recordFirst_err (e : BitVec 4) (c : Word) : (s.recordFirst e c).err = e := rfl
@[simp] theorem recordFirst_merr (e : BitVec 4) (c : Word) : (s.recordFirst e c).merr = s.merr := rfl
@[simp] theorem recordFirst_errcmd (e : BitVec 4) (c : Word) : (s.recordFirst e c).errcmd = c := rfl
@[simp] theorem recordFirst_pend (e : BitVec 4) (c : Word) : (s.recordFirst e c).pend = s.pend := rfl
@[simp] theorem recordFirst_nle (e : BitVec 4) (c : Word) : (s.recordFirst e c).nle = s.nle := rfl
@[simp] theorem recordFirst_host (e : BitVec 4) (c : Word) : (s.recordFirst e c).host = s.host := rfl
@[simp] theorem recordFirst_sched (e : BitVec 4) (c : Word) : (s.recordFirst e c).sched = s.sched := rfl
@[simp] theorem recordFirst_readDraws (e : BitVec 4) (c : Word) : (s.recordFirst e c).readDraws = s.readDraws := rfl

@[simp] theorem recordMore_raw : (s.recordMore).raw = s.raw := rfl
@[simp] theorem recordMore_valid : (s.recordMore).valid = s.valid := rfl
@[simp] theorem recordMore_wm1 : (s.recordMore).wm1 = s.wm1 := rfl
@[simp] theorem recordMore_crc : (s.recordMore).crc = s.crc := rfl
@[simp] theorem recordMore_dataLo : (s.recordMore).dataLo = s.dataLo := rfl
@[simp] theorem recordMore_dataHi : (s.recordMore).dataHi = s.dataHi := rfl
@[simp] theorem recordMore_resLo : (s.recordMore).resLo = s.resLo := rfl
@[simp] theorem recordMore_resHi : (s.recordMore).resHi = s.resHi := rfl
@[simp] theorem recordMore_arr : (s.recordMore).arr = s.arr := rfl
@[simp] theorem recordMore_busy : (s.recordMore).busy = s.busy := rfl
@[simp] theorem recordMore_err : (s.recordMore).err = s.err := rfl
@[simp] theorem recordMore_merr : (s.recordMore).merr = true := rfl
@[simp] theorem recordMore_errcmd : (s.recordMore).errcmd = s.errcmd := rfl
@[simp] theorem recordMore_pend : (s.recordMore).pend = s.pend := rfl
@[simp] theorem recordMore_nle : (s.recordMore).nle = s.nle := rfl
@[simp] theorem recordMore_host : (s.recordMore).host = s.host := rfl
@[simp] theorem recordMore_sched : (s.recordMore).sched = s.sched := rfl
@[simp] theorem recordMore_readDraws : (s.recordMore).readDraws = s.readDraws := rfl

@[simp] theorem clearErrors_raw : (s.clearErrors).raw = s.raw := rfl
@[simp] theorem clearErrors_valid : (s.clearErrors).valid = s.valid := rfl
@[simp] theorem clearErrors_wm1 : (s.clearErrors).wm1 = s.wm1 := rfl
@[simp] theorem clearErrors_crc : (s.clearErrors).crc = s.crc := rfl
@[simp] theorem clearErrors_dataLo : (s.clearErrors).dataLo = s.dataLo := rfl
@[simp] theorem clearErrors_dataHi : (s.clearErrors).dataHi = s.dataHi := rfl
@[simp] theorem clearErrors_resLo : (s.clearErrors).resLo = s.resLo := rfl
@[simp] theorem clearErrors_resHi : (s.clearErrors).resHi = s.resHi := rfl
@[simp] theorem clearErrors_arr : (s.clearErrors).arr = s.arr := rfl
@[simp] theorem clearErrors_busy : (s.clearErrors).busy = s.busy := rfl
@[simp] theorem clearErrors_err : (s.clearErrors).err = 0#4 := rfl
@[simp] theorem clearErrors_merr : (s.clearErrors).merr = false := rfl
@[simp] theorem clearErrors_errcmd : (s.clearErrors).errcmd = 0#32 := rfl
@[simp] theorem clearErrors_pend : (s.clearErrors).pend = s.pend := rfl
@[simp] theorem clearErrors_nle : (s.clearErrors).nle = s.nle := rfl
@[simp] theorem clearErrors_host : (s.clearErrors).host = s.host := rfl
@[simp] theorem clearErrors_sched : (s.clearErrors).sched = s.sched := rfl
@[simp] theorem clearErrors_readDraws : (s.clearErrors).readDraws = s.readDraws := rfl

@[simp] theorem countDraw_raw : (s.countDraw).raw = s.raw := rfl
@[simp] theorem countDraw_valid : (s.countDraw).valid = s.valid := rfl
@[simp] theorem countDraw_wm1 : (s.countDraw).wm1 = s.wm1 := rfl
@[simp] theorem countDraw_crc : (s.countDraw).crc = s.crc := rfl
@[simp] theorem countDraw_dataLo : (s.countDraw).dataLo = s.dataLo := rfl
@[simp] theorem countDraw_dataHi : (s.countDraw).dataHi = s.dataHi := rfl
@[simp] theorem countDraw_resLo : (s.countDraw).resLo = s.resLo := rfl
@[simp] theorem countDraw_resHi : (s.countDraw).resHi = s.resHi := rfl
@[simp] theorem countDraw_arr : (s.countDraw).arr = s.arr := rfl
@[simp] theorem countDraw_busy : (s.countDraw).busy = s.busy := rfl
@[simp] theorem countDraw_err : (s.countDraw).err = s.err := rfl
@[simp] theorem countDraw_merr : (s.countDraw).merr = s.merr := rfl
@[simp] theorem countDraw_errcmd : (s.countDraw).errcmd = s.errcmd := rfl
@[simp] theorem countDraw_pend : (s.countDraw).pend = s.pend := rfl
@[simp] theorem countDraw_nle : (s.countDraw).nle = s.nle := rfl
@[simp] theorem countDraw_host : (s.countDraw).host = s.host := rfl
@[simp] theorem countDraw_sched : (s.countDraw).sched = s.sched := rfl
@[simp] theorem countDraw_readDraws : (s.countDraw).readDraws = s.readDraws + 1 := rfl

@[simp] theorem setHost_raw (h : HostAgent) : (s.setHost h).raw = s.raw := rfl
@[simp] theorem setHost_valid (h : HostAgent) : (s.setHost h).valid = s.valid := rfl
@[simp] theorem setHost_wm1 (h : HostAgent) : (s.setHost h).wm1 = s.wm1 := rfl
@[simp] theorem setHost_crc (h : HostAgent) : (s.setHost h).crc = s.crc := rfl
@[simp] theorem setHost_dataLo (h : HostAgent) : (s.setHost h).dataLo = s.dataLo := rfl
@[simp] theorem setHost_dataHi (h : HostAgent) : (s.setHost h).dataHi = s.dataHi := rfl
@[simp] theorem setHost_resLo (h : HostAgent) : (s.setHost h).resLo = s.resLo := rfl
@[simp] theorem setHost_resHi (h : HostAgent) : (s.setHost h).resHi = s.resHi := rfl
@[simp] theorem setHost_arr (h : HostAgent) : (s.setHost h).arr = s.arr := rfl
@[simp] theorem setHost_busy (h : HostAgent) : (s.setHost h).busy = s.busy := rfl
@[simp] theorem setHost_err (h : HostAgent) : (s.setHost h).err = s.err := rfl
@[simp] theorem setHost_merr (h : HostAgent) : (s.setHost h).merr = s.merr := rfl
@[simp] theorem setHost_errcmd (h : HostAgent) : (s.setHost h).errcmd = s.errcmd := rfl
@[simp] theorem setHost_pend (h : HostAgent) : (s.setHost h).pend = s.pend := rfl
@[simp] theorem setHost_nle (h : HostAgent) : (s.setHost h).nle = s.nle := rfl
@[simp] theorem setHost_host (h : HostAgent) : (s.setHost h).host = h := rfl
@[simp] theorem setHost_sched (h : HostAgent) : (s.setHost h).sched = s.sched := rfl
@[simp] theorem setHost_readDraws (h : HostAgent) : (s.setHost h).readDraws = s.readDraws := rfl

@[simp] theorem setSched_raw (d : Sched) : (s.setSched d).raw = s.raw := rfl
@[simp] theorem setSched_valid (d : Sched) : (s.setSched d).valid = s.valid := rfl
@[simp] theorem setSched_wm1 (d : Sched) : (s.setSched d).wm1 = s.wm1 := rfl
@[simp] theorem setSched_crc (d : Sched) : (s.setSched d).crc = s.crc := rfl
@[simp] theorem setSched_dataLo (d : Sched) : (s.setSched d).dataLo = s.dataLo := rfl
@[simp] theorem setSched_dataHi (d : Sched) : (s.setSched d).dataHi = s.dataHi := rfl
@[simp] theorem setSched_resLo (d : Sched) : (s.setSched d).resLo = s.resLo := rfl
@[simp] theorem setSched_resHi (d : Sched) : (s.setSched d).resHi = s.resHi := rfl
@[simp] theorem setSched_arr (d : Sched) : (s.setSched d).arr = s.arr := rfl
@[simp] theorem setSched_busy (d : Sched) : (s.setSched d).busy = s.busy := rfl
@[simp] theorem setSched_err (d : Sched) : (s.setSched d).err = s.err := rfl
@[simp] theorem setSched_merr (d : Sched) : (s.setSched d).merr = s.merr := rfl
@[simp] theorem setSched_errcmd (d : Sched) : (s.setSched d).errcmd = s.errcmd := rfl
@[simp] theorem setSched_pend (d : Sched) : (s.setSched d).pend = s.pend := rfl
@[simp] theorem setSched_nle (d : Sched) : (s.setSched d).nle = s.nle := rfl
@[simp] theorem setSched_host (d : Sched) : (s.setSched d).host = s.host := rfl
@[simp] theorem setSched_sched (d : Sched) : (s.setSched d).sched = d := rfl
@[simp] theorem setSched_readDraws (d : Sched) : (s.setSched d).readDraws = s.readDraws := rfl

@[simp] theorem resetBlock_raw : (s.resetBlock).raw = Lanes.zero := rfl
@[simp] theorem resetBlock_valid : (s.resetBlock).valid = false := rfl
@[simp] theorem resetBlock_wm1 : (s.resetBlock).wm1 = 0#3 := rfl
@[simp] theorem resetBlock_crc : (s.resetBlock).crc = 0#8 := rfl
@[simp] theorem resetBlock_dataLo : (s.resetBlock).dataLo = 0#32 := rfl
@[simp] theorem resetBlock_dataHi : (s.resetBlock).dataHi = 0#32 := rfl
@[simp] theorem resetBlock_resLo : (s.resetBlock).resLo = 0#32 := rfl
@[simp] theorem resetBlock_resHi : (s.resetBlock).resHi = 0#32 := rfl
@[simp] theorem resetBlock_arr : (s.resetBlock).arr = Lanes.zero := rfl
@[simp] theorem resetBlock_busy : (s.resetBlock).busy = false := rfl
@[simp] theorem resetBlock_err : (s.resetBlock).err = 0#4 := rfl
@[simp] theorem resetBlock_merr : (s.resetBlock).merr = false := rfl
@[simp] theorem resetBlock_errcmd : (s.resetBlock).errcmd = 0#32 := rfl
@[simp] theorem resetBlock_pend : (s.resetBlock).pend = none := rfl
@[simp] theorem resetBlock_nle : (s.resetBlock).nle = s.nle := rfl
@[simp] theorem resetBlock_host : (s.resetBlock).host = s.host := rfl
@[simp] theorem resetBlock_sched : (s.resetBlock).sched = s.sched := rfl
@[simp] theorem resetBlock_readDraws : (s.resetBlock).readDraws = s.readDraws := rfl

end Fields

@[simp] theorem advance_script (h : HostAgent) : h.advance.script = h.script := rfl
@[simp] theorem advance_pos (h : HostAgent) : h.advance.pos = h.pos + 1 := rfl
@[simp] theorem advance_vars (h : HostAgent) : h.advance.vars = h.vars := rfl
@[simp] theorem assign_script (h : HostAgent) (x : Nat) (v : Word) : (h.assign x v).script = h.script := rfl
@[simp] theorem assign_pos (h : HostAgent) (x : Nat) (v : Word) : (h.assign x v).pos = h.pos + 1 := rfl
@[simp] theorem assign_vars (h : HostAgent) (x : Nat) (v : Word) : (h.assign x v).vars = setVar x v h.vars := rfl

/-- Taking a turn touches the schedule only. -/
theorem takeTurn_eq (s : State) : ∃ d, takeTurn s = s.setSched d := by
  unfold takeTurn
  split <;> exact ⟨_, rfl⟩

@[simp] theorem takeTurn_raw (s : State) : (takeTurn s).raw = s.raw := by
  obtain ⟨d, h⟩ := takeTurn_eq s; simp [h]
@[simp] theorem takeTurn_valid (s : State) : (takeTurn s).valid = s.valid := by
  obtain ⟨d, h⟩ := takeTurn_eq s; simp [h]
@[simp] theorem takeTurn_wm1 (s : State) : (takeTurn s).wm1 = s.wm1 := by
  obtain ⟨d, h⟩ := takeTurn_eq s; simp [h]
@[simp] theorem takeTurn_crc (s : State) : (takeTurn s).crc = s.crc := by
  obtain ⟨d, h⟩ := takeTurn_eq s; simp [h]
@[simp] theorem takeTurn_dataLo (s : State) : (takeTurn s).dataLo = s.dataLo := by
  obtain ⟨d, h⟩ := takeTurn_eq s; simp [h]
@[simp] theorem takeTurn_dataHi (s : State) : (takeTurn s).dataHi = s.dataHi := by
  obtain ⟨d, h⟩ := takeTurn_eq s; simp [h]
@[simp] theorem takeTurn_resLo (s : State) : (takeTurn s).resLo = s.resLo := by
  obtain ⟨d, h⟩ := takeTurn_eq s; simp [h]
@[simp] theorem takeTurn_resHi (s : State) : (takeTurn s).resHi = s.resHi := by
  obtain ⟨d, h⟩ := takeTurn_eq s; simp [h]
@[simp] theorem takeTurn_arr (s : State) : (takeTurn s).arr = s.arr := by
  obtain ⟨d, h⟩ := takeTurn_eq s; simp [h]
@[simp] theorem takeTurn_busy (s : State) : (takeTurn s).busy = s.busy := by
  obtain ⟨d, h⟩ := takeTurn_eq s; simp [h]
@[simp] theorem takeTurn_err (s : State) : (takeTurn s).err = s.err := by
  obtain ⟨d, h⟩ := takeTurn_eq s; simp [h]
@[simp] theorem takeTurn_merr (s : State) : (takeTurn s).merr = s.merr := by
  obtain ⟨d, h⟩ := takeTurn_eq s; simp [h]
@[simp] theorem takeTurn_errcmd (s : State) : (takeTurn s).errcmd = s.errcmd := by
  obtain ⟨d, h⟩ := takeTurn_eq s; simp [h]
@[simp] theorem takeTurn_pend (s : State) : (takeTurn s).pend = s.pend := by
  obtain ⟨d, h⟩ := takeTurn_eq s; simp [h]
@[simp] theorem takeTurn_nle (s : State) : (takeTurn s).nle = s.nle := by
  obtain ⟨d, h⟩ := takeTurn_eq s; simp [h]
@[simp] theorem takeTurn_host (s : State) : (takeTurn s).host = s.host := by
  obtain ⟨d, h⟩ := takeTurn_eq s; simp [h]
@[simp] theorem takeTurn_readDraws (s : State) : (takeTurn s).readDraws = s.readDraws := by
  obtain ⟨d, h⟩ := takeTurn_eq s; simp [h]

end Sys2Proof.Machine
end

