-- ==== Sys2Proof/Laws/Ops.lean ====
section
/-! SUPPORT. What each shared operation of Machine/Ops.lean and Machine/HostAgent.lean can do, said once. -/

namespace Sys2Proof.Machine

/-- A completion answers a next state exactly when a command is pending, and then it is the performed state with PEND
emptied and BUSY cleared (R53). -/
theorem complete_eq_next (f : Dword → State → State) (s t : State) :
    complete f s = .next t ↔ ∃ p, s.pend = some p ∧ t = (f p.data s).retire := by
  unfold complete
  cases s.pend with
  | none => simp
  | some p => simp [eq_comm]

/-- A completion with a command pending. -/
theorem complete_of_pend {s : State} {p : Pending} (h : s.pend = some p) (f : Dword → State → State) :
    complete f s = .next (f p.data s).retire := by
  simp [complete, h]

/-- Recording an error writes ERR and ERRCMD, or MERR, and nothing else (R80). -/
theorem raiseError_cases (code : BitVec 4) (c : Word) (s : State) :
    (s.err = errNone ∧ raiseError code c s = s.recordFirst code c) ∨
      (s.err ≠ errNone ∧ raiseError code c s = s.recordMore) := by
  unfold raiseError
  split
  · exact .inl ⟨‹_›, rfl⟩
  · exact .inr ⟨‹_›, rfl⟩

/-- The same as one update. -/
theorem raiseError_eq (code : BitVec 4) (c : Word) (s : State) :
    ∃ e m k, raiseError code c s = { s with err := e, merr := m, errcmd := k } := by
  obtain ⟨-, h⟩ | ⟨-, h⟩ := raiseError_cases code c s
  · exact ⟨code, s.merr, c, h⟩
  · exact ⟨s.err, true, s.errcmd, h⟩

/-- A write to STATUS clears the errors, or does nothing (R89). -/
theorem writeStatus_cases (v : Word) (s : State) :
    (v.getLsbD 31 = true ∧ writeStatus v s = s.clearErrors) ∨ (v.getLsbD 31 = false ∧ writeStatus v s = s) := by
  unfold writeStatus
  split
  · exact .inl ⟨‹_›, rfl⟩
  · exact .inr ⟨Bool.not_eq_true _ ▸ ‹_›, rfl⟩

/-- Everything an issue can do (R51), guards included. -/
theorem issue_cases (c : Word) (s : State) :
    (s.busy = true ∧ issue c s = raiseError errOverrun c s) ∨
      (s.busy = false ∧ ((∃ why, decode c = .illegal why ∧ issue c s = raiseError errIllegal c s) ∨
        ∃ i, decode c = .legal i ∧
          ((readsPacker i = true ∧ s.valid = false ∧ issue c s = raiseError errEmpty c s) ∨
            ((readsPacker i = true → s.valid = true) ∧
              ((needsFourBytes i = true ∧ s.wm1 ≠ 3#3 ∧ issue c s = raiseError errWidth c s) ∨
                ((needsFourBytes i = true → s.wm1 = 3#3) ∧ issue c s = s.accept c)))))) := by
  by_cases hb : s.busy = true
  · exact .inl ⟨hb, by simp [issue, hb]⟩
  · refine .inr ⟨by simpa using hb, ?_⟩
    simp only [Bool.not_eq_true] at hb
    cases hd : decode c with
    | illegal why => exact .inl ⟨why, rfl, by simp [issue, hb, hd]⟩
    | legal i =>
      refine .inr ⟨i, rfl, ?_⟩
      by_cases hv : readsPacker i = true ∧ s.valid = false
      · exact .inl ⟨hv.1, hv.2, by simp [issue, hb, hd, hv]⟩
      · refine .inr ⟨by simpa using hv, ?_⟩
        by_cases hw : needsFourBytes i = true ∧ s.wm1 ≠ 3#3
        · exact .inl ⟨hw.1, hw.2, by simp [issue, hb, hd, hv, hw.1, hw.2]⟩
        · have hw' : needsFourBytes i = true → s.wm1 = 3#3 := by simpa using hw
          refine .inr ⟨hw', ?_⟩
          cases hn : needsFourBytes i with
          | false => simp [issue, hb, hd, hv, hn]
          | true => simp [issue, hb, hd, hv, hw' hn]

/-- A write of a register issues, or clears the errors, or sets one DATA half, or does nothing (R35, R30). -/
theorem writeReg_cases (r : Reg) (v : Word) (s : State) :
    (r = .cmd ∧ writeReg r v s = issue v s) ∨ (r = .status ∧ writeReg r v s = writeStatus v s) ∨
      (r = .dataLo ∧ writeReg r v s = s.setDataLo v) ∨ (r = .dataHi ∧ writeReg r v s = s.setDataHi v) ∨
      writeReg r v s = s := by
  cases r <;> simp [writeReg]

/-- A read changes nothing but the count of free draws (R35). -/
theorem readReg_state (r : Reg) (s : State) : (readReg r s).2 = s ∨ (readReg r s).2 = s.countDraw := by
  unfold readReg
  cases s.busy <;> simp

/-- A statement of the host writes one register, or reads one, or only moves the host on (R47). -/
theorem execStmt_cases {st : Stmt} {s t : State} (h : execStmt st s = .next t) :
    (∃ off n v, st = .memWrite off n v ∧ admitted off n = true ∧
        t = (writeReg (regAt off) v s).setHost s.host.advance) ∨
      (∃ off n x, st = .memRead off n x ∧ admitted off n = true ∧
        t = (readReg (regAt off) s).2.setHost (s.host.assign x (readReg (regAt off) s).1)) ∨
      ∃ k, t = s.setHost { s.host with pos := k } := by
  have hbranch : ∀ taken l, branch taken l s = .next t → ∃ k, t = s.setHost { s.host with pos := k } := by
    intro taken l hb
    unfold branch jump at hb
    split at hb
    · split at hb
      · cases hb; exact ⟨_, rfl⟩
      · cases hb
    · cases hb; exact ⟨_, rfl⟩
  cases st with
  | memWrite off n v =>
    simp only [execStmt, hostWrite] at h
    split at h
    · cases h; exact .inl ⟨off, n, v, rfl, ‹_›, rfl⟩
    · cases h
  | memRead off n x =>
    simp only [execStmt, hostRead] at h
    split at h
    · cases h; exact .inr (.inl ⟨off, n, x, rfl, ‹_›, rfl⟩)
    · cases h
  | label l => cases h; exact .inr (.inr ⟨_, rfl⟩)
  | bnz x m l => exact .inr (.inr (hbranch _ _ h))
  | bz x m l => exact .inr (.inr (hbranch _ _ h))

end Sys2Proof.Machine
end

