-- ==== Sys2Proof/Laws/Exec.lean ====
section
/-! SUPPORT. One equation per command: its meaning as a completion (40_command_issue.md R53), so that no proof unfolds
`exec`. -/

namespace Sys2Proof.Machine

variable (s : State)

/-- NOP (R58). -/
theorem exec_nop : exec .nop s = complete (fun _ s => s) s := rfl

/-- PACK of a size the encoding expresses (R60). -/
theorem exec_pack {w : Nat} (hw : sizeOk w = true) :
    exec (.pack w) s = complete (fun d s => s.loadPacker (natBytes s.nle d w) w) s := by
  simp [exec, execPack, hw]

/-- PACK of any other size (log 13). -/
theorem exec_pack_illFormed {w : Nat} (hw : sizeOk w = false) : exec (.pack w) s = .refused .illFormed := by
  simp [exec, execPack, hw]

/-- GETBE (R62). -/
theorem exec_getbe :
    exec .getbe s = complete (fun _ s => s.setArr (bigEndian s.nle (s.rawBytes s.packedSize))) s := rfl

/-- GETLE (R63). -/
theorem exec_getle :
    exec .getle s = complete (fun _ s => s.setArr (littleEndian s.nle (s.rawBytes s.packedSize))) s := rfl

/-- GETU32 (R64). -/
theorem exec_getu32 :
    exec .getu32 s = complete (fun _ s => s.setRes (BitVec.ofNat 32 (fromNat s.nle (s.rawBytes 4))) 0#32) s := rfl

/-- GETU32BE (R65). -/
theorem exec_getu32be :
    exec .getu32be s =
      complete (fun _ s => s.setRes (BitVec.ofNat 32 (fromNat s.nle (bigEndian s.nle (s.rawBytes 4)))) 0#32) s := rfl

/-- GETU32LE (R66). -/
theorem exec_getu32le :
    exec .getu32le s =
      complete (fun _ s => s.setRes (BitVec.ofNat 32 (fromNat s.nle (littleEndian s.nle (s.rawBytes 4)))) 0#32) s := rfl

/-- UNPACK (R67). -/
theorem exec_unpack :
    exec .unpack s =
      complete
        (fun _ s =>
          s.setRes (lowHalf (zext64 (fromNat s.nle (s.rawBytes s.packedSize))))
            (highHalf (zext64 (fromNat s.nle (s.rawBytes s.packedSize))))) s := rfl

/-- CRCSEED (R73). -/
theorem exec_crcseed (imm : Byte) : exec (.crcseed imm) s = complete (fun _ s => s.setCrc imm) s := rfl

/-- CRCBYTE (R74). -/
theorem exec_crcbyte (imm : Byte) :
    exec (.crcbyte imm) s = complete (fun _ s => s.setCrc (crcStep s.crc imm)) s := rfl

/-- CRCPACK (R75). -/
theorem exec_crcpack :
    exec .crcpack s =
      complete (fun _ s => s.setCrc (crcSeq s.crc (bigEndian s.nle (s.rawBytes s.packedSize)))) s := rfl

end Sys2Proof.Machine
end

