-- ==== Sys2Proof/Laws/PerInstr.lean ====
section
/-! SUPPORT. Statements about every command, one lemma per constructor. `SelectsRow`: the word the encoder of R44
gives a well-formed command selects the command's own row of the opcode map (R43), and no other row. -/

namespace Sys2Proof.Laws.SelectsRow

/-- The rows of R43 that the command's word selects are exactly the one with its mnemonic. -/
def Statement (i : Instr) : Prop :=
  i.wf = true → (opcodeMap.filter (fun r => r.selects (encode i))).map OpcodeRow.mnemonic = [mnemonicOf i]

theorem nop : Statement .nop := by intro; decide

theorem pack (w : Nat) : Statement (.pack w) := by
  intro h
  have h18 : 1 ≤ w ∧ w ≤ 8 := decide_eq_true_iff.1 h
  obtain ⟨h1, h8⟩ := h18
  clear h
  interval_cases w <;> decide

theorem getbe : Statement .getbe := by intro; decide

theorem getle : Statement .getle := by intro; decide

theorem getu32 : Statement .getu32 := by intro; decide

theorem getu32be : Statement .getu32be := by intro; decide

theorem getu32le : Statement .getu32le := by intro; decide

theorem unpack : Statement .unpack := by intro; decide

/-- Every word of the form `opc | (imm << 8)` with opc 0x10 selects the row CRCSEED alone. -/
theorem crcseed (imm : Byte) : Statement (.crcseed imm) := by
  intro _
  revert imm
  decide +kernel

theorem crcbyte (imm : Byte) : Statement (.crcbyte imm) := by
  intro _
  revert imm
  decide +kernel

theorem crcpack : Statement .crcpack := by intro; decide

end Sys2Proof.Laws.SelectsRow
end

