-- ==== Sys2Proof/Laws/Script.lean ====
section
/-! SUPPORT. What the assembler's expansions (30_encoding.md R48, R49) are made of: each function's answer, said once. -/

namespace Sys2Proof.Machine

@[simp] theorem joined_nil : joined [] = some [] := rfl

@[simp] theorem joined_none (rest : List (Option (List Stmt))) : joined (none :: rest) = none := rfl

@[simp] theorem joined_some (part : List Stmt) (rest : List (Option (List Stmt))) :
    joined (some part :: rest) = (joined rest).map (part ++ ·) := rfl

/-- An expansion is refused exactly when a part is. -/
theorem joined_isSome (parts : List (Option (List Stmt))) :
    (joined parts).isSome = true ↔ ∀ p ∈ parts, p.isSome = true := by
  induction parts with
  | nil => simp
  | cons p rest ih => cases p <;> simp [ih]

/-- A statement of an expansion is a statement of one of its parts. -/
theorem mem_of_joined {parts : List (Option (List Stmt))} {script : List Stmt} {st : Stmt}
    (h : joined parts = some script) (hst : st ∈ script) : ∃ part, some part ∈ parts ∧ st ∈ part := by
  induction parts generalizing script with
  | nil => simp_all
  | cons p rest ih =>
    cases p with
    | none => simp at h
    | some part =>
      simp only [joined_some, Option.map_eq_some_iff] at h
      obtain ⟨tail, htail, rfl⟩ := h
      rcases List.mem_append.1 hst with hst | hst
      · exact ⟨part, by simp, hst⟩
      · obtain ⟨q, hq, hmem⟩ := ih htail hst
        exact ⟨q, by simp [hq], hmem⟩

/-- `CMD cmd` is one write of the command's word, for a command the assembler does not refuse. -/
theorem cmd_eq_some (i : Instr) (part : List Stmt) :
    cmd i = some part ↔ i.wf = true ∧ part = [wr .cmd (encode i)] := by
  cases h : i.wf <;> simp only [cmd, h, if_true, Bool.false_eq_true, if_false, reduceCtorEq, false_and, true_and,
    Option.some.injEq, eq_comm]

/-- `ISSUE cmd` of a well-formed command. -/
theorem issueCmd_of_wf {i : Instr} (h : i.wf = true) (l x : Nat) :
    issueCmd l x i = some (wait l x ++ [wr .cmd (encode i)]) := by
  simp [issueCmd, cmd, h]

/-- `ISSUE cmd` of a command the assembler refuses. -/
theorem issueCmd_refused {i : Instr} (h : i.wf = false) (l x : Nat) : issueCmd l x i = none := by
  simp [issueCmd, cmd, h]

/-- `CRCCLR` is never refused. -/
theorem crcclr_eq (l x : Nat) : crcclr l x = some (wait l x ++ [wr .cmd 0x00000010#32]) := by
  rw [crcclr, issueCmd_of_wf rfl]
  rfl

/-- `PACKV w, v` for a size of 1 to 8. -/
theorem packv_of_size {w : Nat} (h : sizeOk w = true) (l x : Nat) (v : Dword) :
    packv l x w v = some (loadv v ++ (wait l x ++ [wr .cmd (encode (.pack w))])) := by
  simp [packv, issueCmd_of_wf (i := .pack w) h]

/-- `PACKV w, v` for any other size. -/
theorem packv_refused {w : Nat} (h : sizeOk w = false) (l x : Nat) (v : Dword) : packv l x w v = none := by
  simp [packv, issueCmd_refused (i := .pack w) h]

/-- Feeding bytes is never refused: an immediate is a byte. -/
theorem feedBytes_isSome (l x : Nat) (data : List Byte) : (feedBytes l x data).isSome = true := by
  induction data generalizing l with
  | nil => rfl
  | cons b rest ih => simp [feedBytes, joined_isSome, issueCmd_of_wf (i := .crcbyte b) rfl, ih]

/-- The rounds of a fold are refused exactly when an argument's size is. -/
theorem foldArgs_isSome (l x : Nat) (args : List (Nat × Dword)) :
    (foldArgs l x args).isSome = true ↔ ∀ a ∈ args, sizeOk a.1 = true := by
  induction args generalizing l with
  | nil => simp [foldArgs]
  | cons a rest ih =>
    obtain ⟨w, v⟩ := a
    simp only [foldArgs, joined_isSome, List.forall_mem_cons, issueCmd_of_wf (i := .crcpack) rfl, ih]
    cases h : sizeOk w
    · simp [packv_refused h]
    · simp [packv_of_size h]

/-- A label stands as often as the script counts it. -/
theorem labelPositions_length (l k : Nat) (script : List Stmt) :
    (labelPositions l k script).length = script.count (.label l) := by
  induction script generalizing k with
  | nil => rfl
  | cons st rest ih =>
    simp only [labelPositions, List.count_cons, beq_iff_eq]
    split <;> simp [ih]

end Sys2Proof.Machine
end

