-- ==== Sys2Proof/Laws/Step.lean ====
section
/-! SUPPORT. What one step of the machine can do, said once: every invariant of a step is a case analysis over
`step_cases` and `exec_cases`. -/

namespace Sys2Proof.Machine

/-- What a completion writes, command by command, before PEND is emptied and BUSY cleared (R58 to R75). -/
theorem exec_cases {i : Instr} {s t : State} (h : exec i s = .next t) :
    ∃ p, s.pend = some p ∧
      ((i = .nop ∧ t = s.retire) ∨
        (∃ w, i = .pack w ∧ sizeOk w = true ∧ t = (s.loadPacker (natBytes s.nle p.data w) w).retire) ∨
        ((i = .getbe ∨ i = .getle) ∧ ∃ a, t = (s.setArr a).retire) ∨
        ((i = .getu32 ∨ i = .getu32be ∨ i = .getu32le ∨ i = .unpack) ∧ ∃ lo hi, t = (s.setRes lo hi).retire) ∨
        (((∃ b, i = .crcseed b) ∨ (∃ b, i = .crcbyte b) ∨ i = .crcpack) ∧ ∃ v, t = (s.setCrc v).retire)) := by
  cases i with
  | pack w =>
    by_cases hw : sizeOk w = true
    · rw [exec_pack s hw] at h
      obtain ⟨p, hp, rfl⟩ := (complete_eq_next _ _ _).1 h
      exact ⟨p, hp, .inr (.inl ⟨w, rfl, hw, rfl⟩)⟩
    · rw [exec_pack_illFormed s (by simpa using hw)] at h
      cases h
  | nop =>
    rw [exec_nop] at h; obtain ⟨p, hp, rfl⟩ := (complete_eq_next _ _ _).1 h
    exact ⟨p, hp, by simp⟩
  | getbe =>
    rw [exec_getbe] at h; obtain ⟨p, hp, rfl⟩ := (complete_eq_next _ _ _).1 h
    exact ⟨p, hp, .inr (.inr (.inl ⟨by simp, _, rfl⟩))⟩
  | getle =>
    rw [exec_getle] at h; obtain ⟨p, hp, rfl⟩ := (complete_eq_next _ _ _).1 h
    exact ⟨p, hp, .inr (.inr (.inl ⟨by simp, _, rfl⟩))⟩
  | getu32 =>
    rw [exec_getu32] at h; obtain ⟨p, hp, rfl⟩ := (complete_eq_next _ _ _).1 h
    exact ⟨p, hp, .inr (.inr (.inr (.inl ⟨by simp, _, _, rfl⟩)))⟩
  | getu32be =>
    rw [exec_getu32be] at h; obtain ⟨p, hp, rfl⟩ := (complete_eq_next _ _ _).1 h
    exact ⟨p, hp, .inr (.inr (.inr (.inl ⟨by simp, _, _, rfl⟩)))⟩
  | getu32le =>
    rw [exec_getu32le] at h; obtain ⟨p, hp, rfl⟩ := (complete_eq_next _ _ _).1 h
    exact ⟨p, hp, .inr (.inr (.inr (.inl ⟨by simp, _, _, rfl⟩)))⟩
  | unpack =>
    rw [exec_unpack] at h; obtain ⟨p, hp, rfl⟩ := (complete_eq_next _ _ _).1 h
    exact ⟨p, hp, .inr (.inr (.inr (.inl ⟨by simp, _, _, rfl⟩)))⟩
  | crcseed b =>
    rw [exec_crcseed] at h; obtain ⟨p, hp, rfl⟩ := (complete_eq_next _ _ _).1 h
    exact ⟨p, hp, .inr (.inr (.inr (.inr ⟨by simp, _, rfl⟩)))⟩
  | crcbyte b =>
    rw [exec_crcbyte] at h; obtain ⟨p, hp, rfl⟩ := (complete_eq_next _ _ _).1 h
    exact ⟨p, hp, .inr (.inr (.inr (.inr ⟨by simp, _, rfl⟩)))⟩
  | crcpack =>
    rw [exec_crcpack] at h; obtain ⟨p, hp, rfl⟩ := (complete_eq_next _ _ _).1 h
    exact ⟨p, hp, .inr (.inr (.inr (.inr ⟨by simp, _, rfl⟩)))⟩

/-- The engine's turn passes, or completes the command PEND holds (R53). -/
theorem engineStep_cases {s t : State} (h : engineStep s = .next t) :
    (s.busy = false ∧ t = s) ∨
      (s.busy = true ∧ ∃ p i, s.pend = some p ∧ decode p.word = .legal i ∧ exec i s = .next t) := by
  unfold engineStep at h
  split at h
  · refine .inr ⟨‹_›, ?_⟩
    split at h
    · cases h
    · split at h
      · exact ⟨_, _, ‹_›, ‹_›, h⟩
      · cases h
  · exact .inl ⟨Bool.not_eq_true _ ▸ ‹_›, by cases h; rfl⟩

/-- The host's turn passes, or takes the statement at its position (R47). -/
theorem hostStep_cases {s t : State} (h : hostStep s = .next t) :
    (s.host.script[s.host.pos]? = none ∧ t = s) ∨
      ∃ st, s.host.script[s.host.pos]? = some st ∧ execStmt st s = .next t := by
  unfold hostStep at h
  split at h
  · exact .inl ⟨‹_›, by cases h; rfl⟩
  · exact .inr ⟨_, ‹_›, h⟩

/-- One step is one turn of one agent, or the reset event (R7, R8, R100). -/
theorem step_cases {s t : State} (h : step s = .next t) :
    (nextTurn s = .host ∧ hostStep (takeTurn s) = .next t) ∨
      (nextTurn s = .engine ∧ engineStep (takeTurn s) = .next t) ∨
      (nextTurn s = .reset ∧ t = (takeTurn s).resetBlock) := by
  unfold step at h
  split at h
  · exact .inl ⟨‹_›, h⟩
  · exact .inr (.inl ⟨‹_›, h⟩)
  · exact .inr (.inr ⟨‹_›, by cases h; rfl⟩)

end Sys2Proof.Machine
end

