-- ==== Sys2Proof/Laws/Window.lean ====
section
/-! SUPPORT. The register window: which accesses are admitted (20_memory.md R31), where each register stands
(10_state.md R14), and the host's variables. -/

namespace Sys2Proof.Machine

/-- R31 in its own words. -/
theorem admitted_iff (off : Int) (n : Nat) :
    admitted off n = true ↔ n = 4 ∧ 0 ≤ off ∧ off ≤ 0x7C ∧ off % 4 = 0 := by
  rw [admitted, decide_eq_true_iff]
  simp only [Config.lastOffset]
  constructor <;> rintro ⟨a, b, c, d⟩ <;> exact ⟨a, b, by omega, by omega⟩

/-- An admitted offset is four times one of 32 register numbers. -/
theorem offset_of_admitted {off : Int} {n : Nat} (h : admitted off n = true) :
    n = 4 ∧ ∃ q : Nat, q < 32 ∧ off = 4 * (q : Int) := by
  obtain ⟨hn, h0, h1, h2⟩ := (admitted_iff off n).1 h
  exact ⟨hn, (off / 4).toNat, by omega, by omega⟩

/-- Every register stands at an admitted offset, and is the register found there (R14). -/
theorem regAt_off (r : Reg) : admitted (r.off : Int) 4 = true ∧ regAt (r.off : Int) = r := by
  cases r with
  | arr i => fin_cases i <;> decide
  | _ => decide

/-- CMD stands at offset 0x08 alone. -/
theorem off_of_cmd {off : Int} {n : Nat} (h : admitted off n = true) (hr : regAt off = .cmd) :
    off = 0x08 ∧ n = 4 := by
  obtain ⟨rfl, q, hq, rfl⟩ := offset_of_admitted h
  clear h
  interval_cases q <;> first | exact ⟨rfl, rfl⟩ | exact absurd hr (by decide)

/-- STATUS stands at offset 0x04 alone. -/
theorem off_of_status {off : Int} {n : Nat} (h : admitted off n = true) (hr : regAt off = .status) :
    off = 0x04 ∧ n = 4 := by
  obtain ⟨rfl, q, hq, rfl⟩ := offset_of_admitted h
  clear h
  interval_cases q <;> first | exact ⟨rfl, rfl⟩ | exact absurd hr (by decide)

/-- A variable holds what the last read put there. -/
@[simp] theorem varValue_setVar (x : Nat) (v : Word) (l : List (Nat × Word)) : varValue x (setVar x v l) = v := by
  induction l with
  | nil => simp [setVar, varValue]
  | cons a l ih => simp only [setVar]; split_ifs <;> simp_all [varValue]

/-- A read leaves every other variable alone. -/
theorem varValue_setVar_of_ne {x y : Nat} (h : y ≠ x) (v : Word) (l : List (Nat × Word)) :
    varValue y (setVar x v l) = varValue y l := by
  induction l with
  | nil => simp [setVar, varValue, h]
  | cons a l ih => simp only [setVar]; split_ifs <;> simp_all [varValue]

end Sys2Proof.Machine
end

