-- ==== Sys2Proof/Tests/Slice0.lean ====
section
/-! SUPPORT. Tests of one step or one decoding each, with expected values from 95_test_vectors.md and the rules' own
examples, and for every statement with hypotheses a concrete state and operands that meet them. -/

namespace Sys2Proof.Tests

open Sys2Proof Sys2Proof.Machine

/-! States the tests start from. -/

/-- The state right after reset of an instance with the given native order. -/
def idle (le : Bool) : State := State.resetWith le

/-- A state with a command pending, as an accepted CMD write leaves it. -/
def pending (i : Instr) (d : Dword) (s : State) : State := { s with pend := some ⟨encode i, d⟩, busy := true }

/-- An idle state whose packer has the given RAW and WM1. -/
def holding (le : Bool) (raw : Lanes) (m : BitVec 3) : State :=
  { idle le with raw := raw, wm1 := m, valid := true }

/-- A state whose next turns are given. -/
def turns (ts : List Turn) (s : State) : State := s.setSched { turns := ts, turnDraws := 0 }

/-- A state whose host agent is at the start of the given script. -/
def scripted (sc : List Stmt) (s : State) : State := s.setHost { script := sc, pos := 0, vars := [] }

/-- `ISSUE NOP`, with the label 0 and the host variable 1 (R49). -/
def issueNop : List Stmt := [.label 0, rd .status 1, .bnz 1 1#32 0, wr .cmd 0x00000000#32]

/-- The next state of an outcome. -/
def after (o : Host.Outcome State Fault Refusal) : Option State :=
  match o with
  | .next s => some s
  | .fault _ => none
  | .refused _ => none

/-- The fault of an outcome. -/
def faultOf (o : Host.Outcome State Fault Refusal) : Option Fault :=
  match o with
  | .next _ => none
  | .fault r => some r
  | .refused _ => none

/-- RAW after PACK 4 of 0x12345678 (95_test_vectors.md 2.2), little and big native order. -/
def raw4 (le : Bool) : Lanes :=
  if le then ⟨0x78, 0x56, 0x34, 0x12, 0, 0, 0, 0⟩ else ⟨0x12, 0x34, 0x56, 0x78, 0, 0, 0, 0⟩

/-- RAW after PACK 3 of 0xABCDEF (95_test_vectors.md 2.2). -/
def raw3 (le : Bool) : Lanes :=
  if le then ⟨0xEF, 0xCD, 0xAB, 0, 0, 0, 0, 0⟩ else ⟨0xAB, 0xCD, 0xEF, 0, 0, 0, 0, 0⟩

/-! Well-formedness: a size the encoding cannot express is refused (R48: "PACK 0", "PACK 9 and above"). -/

theorem test_wf_refuses_pack_0 : (Instr.pack 0).wf = false := by decide

theorem test_wf_refuses_pack_9 : (Instr.pack 9).wf = false := by decide

theorem test_wf_accepts_pack_8 : (Instr.pack 8).wf = true := by decide

/-! Decoding, from the words of 95_test_vectors.md 2.1 written out by the patterns of R44. -/

theorem test_decode_nop : decode 0b00000000000000000000000000000000#32 = .legal .nop := by decide

theorem test_decode_pack_1 : decode 0b00000000000000000000000000000001#32 = .legal (.pack 1) := by decide

theorem test_decode_pack_3 : decode 0b00000000000000100000000000000001#32 = .legal (.pack 3) := by decide

theorem test_decode_getbe : decode 0b00000000000000000000000000000010#32 = .legal .getbe := by decide

theorem test_decode_getle : decode 0b00000000000000000000000000000011#32 = .legal .getle := by decide

theorem test_decode_getu32 : decode 0b00000000000000000000000000000100#32 = .legal .getu32 := by decide

theorem test_decode_getu32be : decode 0b00000000000000000000000000000101#32 = .legal .getu32be := by decide

theorem test_decode_getu32le : decode 0b00000000000000000000000000000110#32 = .legal .getu32le := by decide

theorem test_decode_unpack : decode 0b00000000000000000000000000000111#32 = .legal .unpack := by decide

theorem test_decode_crcseed : decode 0b00000000000000001010010100010000#32 = .legal (.crcseed 0xA5) := by decide

theorem test_decode_crcbyte : decode 0b00000000000000001110111100010001#32 = .legal (.crcbyte 0xEF) := by decide

theorem test_decode_crcpack : decode 0b00000000000000000000000000010010#32 = .legal .crcpack := by decide

/-- The illegal words of 95_test_vectors.md 2.1. -/
theorem test_decode_illegal :
    [0x00000008#32, 0x0000000F#32, 0x00000013#32, 0x000000FF#32, 0x00080001#32, 0x00000102#32, 0x00010002#32,
      0x00010010#32, 0x00070010#32, 0x00000112#32, 0x00001000#32, 0x80000000#32].map
        (fun c => (decode c).instr?) = List.replicate 12 none := by decide

/-- No two rows of the opcode map share a word they fix alike: their OPC values differ (R44). -/
theorem test_rows_differ : opcodeMap.Pairwise (fun r q => opcField r.bits ≠ opcField q.bits) := by decide

/-- The assembler's refusals (R48). -/
theorem test_assembler_refuses :
    assemble "PACK" (some 0) = none ∧ assemble "PACK" (some 9) = none ∧ assemble "CRCBYTE" (some 0x100) = none ∧
      assemble "CRCFOLD" none = none := by decide

/-! The commands' results, from the tables of 95_test_vectors.md 2.2 and 2.4. -/

theorem test_nop :
    after (exec .nop (pending .nop 0 (idle true))) = some (idle true) := by decide

/-- DATA bits above 8W are ignored: the row W = 3, DATA = 0x00000000FFABCDEF. -/
theorem test_pack_3 : ∀ le,
    (after (exec (.pack 3) (pending (.pack 3) 0x00000000FFABCDEF#64 (idle le)))).map
      (fun s => (s.raw, s.wm1, s.valid)) = some (raw3 le, 2, true) := by decide

/-- The row W = 8, DATA = 0x3FF0000000000000. -/
theorem test_pack_8 :
    (after (exec (.pack 8) (pending (.pack 8) 0x3FF0000000000000#64 (holding true (raw4 true) 3)))).map
      (fun s => (s.raw, s.wm1)) = some (⟨0, 0, 0, 0, 0, 0, 0xF0, 0x3F⟩, 7) := by decide

theorem test_getbe_4 : ∀ le,
    (after (exec .getbe (pending .getbe 0 (holding le (raw4 le) 3)))).map State.arr =
      some ⟨0x12, 0x34, 0x56, 0x78, 0, 0, 0, 0⟩ := by decide

theorem test_getbe_3 : ∀ le,
    (after (exec .getbe (pending .getbe 0 (holding le (raw3 le) 2)))).map State.arr =
      some ⟨0xAB, 0xCD, 0xEF, 0, 0, 0, 0, 0⟩ := by decide

theorem test_getle_4 : ∀ le,
    (after (exec .getle (pending .getle 0 (holding le (raw4 le) 3)))).map State.arr =
      some ⟨0x78, 0x56, 0x34, 0x12, 0, 0, 0, 0⟩ := by decide

theorem test_getle_3 : ∀ le,
    (after (exec .getle (pending .getle 0 (holding le (raw3 le) 2)))).map State.arr =
      some ⟨0xEF, 0xCD, 0xAB, 0, 0, 0, 0, 0⟩ := by decide

theorem test_getu32 : ∀ le,
    (after (exec .getu32 (pending .getu32 0 (holding le (raw4 le) 3)))).map State.res =
      some 0x12345678#64 := by decide

theorem test_getu32be : ∀ le,
    (after (exec .getu32be (pending .getu32be 0 (holding le (raw4 le) 3)))).map State.resLo =
      some (if le then 0x78563412#32 else 0x12345678#32) := by decide

theorem test_getu32le : ∀ le,
    (after (exec .getu32le (pending .getu32le 0 (holding le (raw4 le) 3)))).map State.resLo =
      some (if le then 0x12345678#32 else 0x78563412#32) := by decide

theorem test_unpack_3 : ∀ le,
    (after (exec .unpack (pending .unpack 0 (holding le (raw3 le) 2)))).map State.res =
      some 0x0000000000ABCDEF#64 := by decide

/-- The binary64 pattern of 1.0 (L1-1). -/
theorem test_unpack_8 :
    (after (exec .unpack (pending .unpack 0 (holding true ⟨0, 0, 0, 0, 0, 0, 0xF0, 0x3F⟩ 7)))).map State.res =
      some 0x3FF0000000000000#64 := by decide

theorem test_crcseed :
    (after (exec (.crcseed 0xA5) (pending (.crcseed 0xA5) 0 (idle true)))).map State.crc = some 0xA5 := by decide

/-- From 0xA0, CRCBYTE 0xEF gives 0x13. -/
theorem test_crcbyte :
    (after (exec (.crcbyte 0xEF) (pending (.crcbyte 0xEF) 0 { idle true with crc := 0xA0 }))).map State.crc =
      some 0x13 := by decide

/-- crc_step(c, c) = 0: CRCBYTE 0x13 from 0x13. -/
theorem test_crcbyte_self :
    (after (exec (.crcbyte 0x13) (pending (.crcbyte 0x13) 0 { idle true with crc := 0x13 }))).map State.crc =
      some 0x00 := by decide

/-- crc(0, [12, 34, 56, 78]) = 0x37, with either native order. -/
theorem test_crcpack_4 : ∀ le,
    (after (exec .crcpack (pending .crcpack 0 (holding le (raw4 le) 3)))).map State.crc = some 0x37 := by decide +kernel

/-- From 0x16, packer W = 2, V = 0x1234: 0x82 (L1-6). -/
theorem test_crcpack_seeded :
    (after (exec .crcpack (pending .crcpack 0
      { holding true ⟨0x34, 0x12, 0, 0, 0, 0, 0, 0⟩ 1 with crc := 0x16 }))).map State.crc = some 0x82 := by decide

/-- The bit trace of 0xBE (95_test_vectors.md 2.4). -/
theorem test_crc_bit_trace :
    (List.range 9).map (fun n => crcShifts n 0xBE) =
      [0xBE#8, 0x4D#8, 0x9A#8, 0x05#8, 0x0A#8, 0x14#8, 0x28#8, 0x50#8, 0xA0#8] := by decide +kernel

/-- Sequences of 95_test_vectors.md 2.4 and 2.6; the last is the self-check. -/
theorem test_crc_sequences :
    crcSeq 0xA5 [0xBE, 0xEF] = 0x9B ∧ crcSeq 0xFF [0xBE, 0xEF] = 0x92 ∧
      crcSeq 0x00 [0x31, 0x32, 0x33, 0x34, 0x35, 0x36, 0x37, 0x38, 0x39] = 0xA2 ∧
      crcSeq 0xFF [0xBE, 0xEF, 0x92] = 0x00 := by decide +kernel

/-- The fold of L1-8: a1 = 0x12345678 (4), a2 = 0xBEEF (2), a3 = 0x00 (1); and L1-6. -/
theorem test_fold :
    crcFold [(4, 0x12345678#64), (2, 0xBEEF#64), (1, 0x00#64)] = 0x93 ∧
      crcFold [(2, 0x1234#64), (1, 0xAB#64)] = 0x82 ∧ crcFold [(1, 0xAB#64), (2, 0x1234#64)] = 0x0F := by decide +kernel

/-- The table T of 95_test_vectors.md 2.7, row by row. -/
def tableOfVectors : List Nat :=
  [0x00, 0x31, 0x62, 0x53, 0xC4, 0xF5, 0xA6, 0x97, 0xB9, 0x88, 0xDB, 0xEA, 0x7D, 0x4C, 0x1F, 0x2E] ++
  [0x43, 0x72, 0x21, 0x10, 0x87, 0xB6, 0xE5, 0xD4, 0xFA, 0xCB, 0x98, 0xA9, 0x3E, 0x0F, 0x5C, 0x6D] ++
  [0x86, 0xB7, 0xE4, 0xD5, 0x42, 0x73, 0x20, 0x11, 0x3F, 0x0E, 0x5D, 0x6C, 0xFB, 0xCA, 0x99, 0xA8] ++
  [0xC5, 0xF4, 0xA7, 0x96, 0x01, 0x30, 0x63, 0x52, 0x7C, 0x4D, 0x1E, 0x2F, 0xB8, 0x89, 0xDA, 0xEB] ++
  [0x3D, 0x0C, 0x5F, 0x6E, 0xF9, 0xC8, 0x9B, 0xAA, 0x84, 0xB5, 0xE6, 0xD7, 0x40, 0x71, 0x22, 0x13] ++
  [0x7E, 0x4F, 0x1C, 0x2D, 0xBA, 0x8B, 0xD8, 0xE9, 0xC7, 0xF6, 0xA5, 0x94, 0x03, 0x32, 0x61, 0x50] ++
  [0xBB, 0x8A, 0xD9, 0xE8, 0x7F, 0x4E, 0x1D, 0x2C, 0x02, 0x33, 0x60, 0x51, 0xC6, 0xF7, 0xA4, 0x95] ++
  [0xF8, 0xC9, 0x9A, 0xAB, 0x3C, 0x0D, 0x5E, 0x6F, 0x41, 0x70, 0x23, 0x12, 0x85, 0xB4, 0xE7, 0xD6] ++
  [0x7A, 0x4B, 0x18, 0x29, 0xBE, 0x8F, 0xDC, 0xED, 0xC3, 0xF2, 0xA1, 0x90, 0x07, 0x36, 0x65, 0x54] ++
  [0x39, 0x08, 0x5B, 0x6A, 0xFD, 0xCC, 0x9F, 0xAE, 0x80, 0xB1, 0xE2, 0xD3, 0x44, 0x75, 0x26, 0x17] ++
  [0xFC, 0xCD, 0x9E, 0xAF, 0x38, 0x09, 0x5A, 0x6B, 0x45, 0x74, 0x27, 0x16, 0x81, 0xB0, 0xE3, 0xD2] ++
  [0xBF, 0x8E, 0xDD, 0xEC, 0x7B, 0x4A, 0x19, 0x28, 0x06, 0x37, 0x64, 0x55, 0xC2, 0xF3, 0xA0, 0x91] ++
  [0x47, 0x76, 0x25, 0x14, 0x83, 0xB2, 0xE1, 0xD0, 0xFE, 0xCF, 0x9C, 0xAD, 0x3A, 0x0B, 0x58, 0x69] ++
  [0x04, 0x35, 0x66, 0x57, 0xC0, 0xF1, 0xA2, 0x93, 0xBD, 0x8C, 0xDF, 0xEE, 0x79, 0x48, 0x1B, 0x2A] ++
  [0xC1, 0xF0, 0xA3, 0x92, 0x05, 0x34, 0x67, 0x56, 0x78, 0x49, 0x1A, 0x2B, 0xBC, 0x8D, 0xDE, 0xEF] ++
  [0x82, 0xB3, 0xE0, 0xD1, 0x46, 0x77, 0x24, 0x15, 0x3B, 0x0A, 0x59, 0x68, 0xFF, 0xCE, 0x9D, 0xAC]

/-- All 256 entries of the table (R72). -/
theorem test_crc_table : (List.range 256).map (fun x => (crcTable (BitVec.ofNat 8 x)).toNat) = tableOfVectors := by
  decide +kernel

/-! Issue, errors and the window, from 95_test_vectors.md 2.3 and 2.5. -/

/-- What a test of issue looks at. -/
def errorsOf (s : State) : BitVec 4 × Bool × Word × Word := (s.err, s.merr, s.errcmd, statusWord s)

/-- A NOP issued after reset: STATUS reads 0x00000021 until it completes. -/
theorem test_issue_nop : (issue 0x00000000#32 (idle true)).busy = true ∧
    statusWord (issue 0x00000000#32 (idle true)) = 0x00000021#32 := by decide

theorem test_issue_empty :
    errorsOf (issue 0x00000004#32 (idle true)) = (2, false, 0x00000004, 0x00000220) := by decide

theorem test_issue_illegal_before_empty :
    errorsOf (issue 0x00010004#32 (idle true)) = (1, false, 0x00010004, 0x00000120) := by decide

/-- After PACK 2 of 0xBEEF: WIDTH, then a later error sets MERR and keeps the first, then ERRCLR. -/
theorem test_issue_width_then_more :
    errorsOf (issue 0x00000004#32 (holding true ⟨0xEF, 0xBE, 0, 0, 0, 0, 0, 0⟩ 1)) =
        (3, false, 0x00000004, 0x00000326) ∧
      errorsOf (issue 0x000000FF#32 (issue 0x00000004#32 (holding true ⟨0xEF, 0xBE, 0, 0, 0, 0, 0, 0⟩ 1))) =
        (3, true, 0x00000004, 0x00000366) := by decide

theorem test_errclr :
    errorsOf (writeReg .status 0x80000000#32
        { holding true ⟨0xEF, 0xBE, 0, 0, 0, 0, 0, 0⟩ 1 with err := 3, merr := true, errcmd := 4 }) =
      (0, false, 0x00000000, 0x00000026) ∧
    errorsOf (writeReg .status 0x7FFFFFFF#32 { idle true with err := 2, errcmd := 2 }) =
      (2, false, 0x00000002, 0x00000220) := by decide

theorem test_issue_overrun :
    errorsOf (issue 0x0000BE11#32 (pending .nop 0 (idle true))) = (4, false, 0x0000BE11, 0x00000421) := by decide

/-- The reset column of R14, offset by offset; STATUS is NLE. -/
theorem test_reset_reads : ∀ le,
    (List.range 32).map (fun q => trueValue (regAt (4 * (q : Int))) (idle le)) =
      [0x43524338#32, (if le then 0x00000020#32 else 0#32)] ++ List.replicate 30 0#32 := by decide

/-- One host step: `WR DATA_HI, v`. -/
theorem test_step_write_data :
    (after (step (turns [.host] (scripted [wr .dataHi 0xCAFE0123#32] (idle false))))).map
      (fun s => (s.dataHi, s.dataLo, s.host.pos, s.sched.turns)) = some (0xCAFE0123#32, 0#32, 1, []) := by decide

/-- One host step: `RD ID -> 7`. -/
theorem test_step_read_id :
    (after (step (turns [.host] (scripted [rd .id 7] (idle false))))).map (fun s => s.host.vars) =
      some [(7, 0x43524338#32)] := by decide

/-- `BNZ` goes to its label, `BZ` to the next statement, when `(x & m) != 0`. -/
theorem test_step_branches :
    (after (execStmt (.bnz 7 1 3) ((scripted [.bnz 7 1 3, .label 2, .label 3] (idle true)).setHost
      { script := [.bnz 7 1 3, .label 2, .label 3], pos := 0, vars := [(7, 0x21#32)] }))).map
        (fun s => s.host.pos) = some 2 ∧
    (after (execStmt (.bz 7 1 3) ((idle true).setHost
      { script := [.bz 7 1 3, .label 2, .label 3], pos := 0, vars := [(7, 0x21#32)] }))).map
        (fun s => s.host.pos) = some 1 := by decide

/-- The reset event abandons a pending PACK: none of its effects occur (R100). -/
theorem test_step_reset :
    (after (step (turns [.reset] (pending (.pack 4) 0x12345678#64 (idle true))))).map
      (fun s => (s.pend, s.busy, s.valid, s.raw)) = some (none, false, false, Lanes.zero) := by decide

/-- The table word of PACK 4, placed where the engine reads it, runs as the first command after reset. -/
theorem test_fetch_word :
    decodeTableWord 32 0x00030001 = some (.pack 4) ∧
    (after (step ((idle true).withFetchWord 32 0x00030001))).map (fun s => (s.valid, s.wm1, s.busy)) =
      some (true, 3, false) := by decide

/-- WAIT's expansion, with fresh labels in an ISSUE after it, is a script the host is never stuck in (R49). -/
theorem test_expansions_ok :
    (crcBuf 0 1 2 0xFF [0xBE, 0xEF]).map scriptOk = some true ∧
      (crcFoldScript 0 1 2 [(2, 0x1234#64), (1, 0xAB#64)]).map scriptOk = some true ∧
      crcFoldScript 0 1 2 [] = none := by decide

/-- The refusals of `PACK 0` and `PACK 9` (R48) reach every expansion with a `PACK` in it (R49). -/
theorem test_expansions_refuse :
    packv 0 1 0 0xAB#64 = none ∧ packv 0 1 9 0xAB#64 = none ∧ crc8v 0 1 2 0 0xAB#64 = none ∧
      crcFoldScript 0 1 2 [(8, 0x1234#64), (9, 0xAB#64)] = none ∧ (crc8v 0 1 2 8 0xAB#64).isSome = true := by decide

/-- `PACKV 4, 0x12345678` is LOADV, WAIT and `CMD PACK 4 ; 0x00030001` (R49, R50; offsets of R14). -/
theorem test_packv_4 :
    packv 3 1 4 0x12345678#64 =
      some [.memWrite 0x10 4 0x12345678#32, .memWrite 0x14 4 0#32, .label 3, .memRead 0x04 4 1, .bnz 1 1#32 3,
        .memWrite 0x08 4 0x00030001#32] := by decide

/-! Witnesses: for each statement with hypotheses, a state and operands that meet them all. -/

/-- A packer that holds 0x12345678 in four bytes, with either native order. -/
theorem holds_4 (le : Bool) : Holds (holding le (raw4 le) 3) 0x12345678#64 4 := by
  cases le <;> exact ⟨by decide, by decide, by decide, by decide⟩

/-- The boundary sizes: 1 and 8 bytes. -/
theorem holds_1_and_8 :
    Holds (holding false ⟨0xAB, 0, 0, 0, 0, 0, 0, 0⟩ 0) 0xFFFFFFFFFFFFFFAB#64 1 ∧
      Holds (holding true ⟨8, 7, 6, 5, 4, 3, 2, 1⟩ 7) 0x0102030405060708#64 8 :=
  ⟨⟨by decide, by decide, by decide, by decide⟩, ⟨by decide, by decide, by decide, by decide⟩⟩

theorem witness_DecodeAndEncodeAreInverse :
    (Instr.pack 8).wf = true ∧ encode (.pack 8) = 0x00070001#32 ∧ (Instr.crcseed 0xFF).wf = true ∧
      encode (.crcseed 0xFF) = 0x0000FF10#32 := by decide

theorem witness_DecodeFollowsTheOpcodeMap :
    (∃ r ∈ opcodeMap, r.selects 0x00070001#32 = true) ∧ ∀ r ∈ opcodeMap, r.selects 0x00080001#32 = false := by decide

theorem witness_IllegalWordsAndTheirEffect :
    (decode 0x00000008#32).instr? = none ∧ (decode 0x00080001#32).instr? = none ∧
      (decode 0x00010010#32).instr? = none ∧ (decode 0x00000102#32).instr? = none ∧
      (idle true).busy = false ∧ (idle true).err = 0 ∧ { idle true with err := 2 }.err ≠ 0 := by decide

theorem witness_AssemblerNeverEmitsAnIllegalWord :
    assemble "PACK" (some 8) = some (.pack 8) ∧ assemble "PACK" (some 1) = some (.pack 1) ∧
      assemble "CRCSEED" (some 0xFF) = some (.crcseed 0xFF) := by decide

/-- Each kind of expansion, with a size at the boundary. -/
theorem witness_ExpansionsNeverEmitAnIllegalWord :
    issueCmd 0 1 .nop = some issueNop ∧ (packv 0 1 8 5#64).isSome = true ∧ (crcBuf 0 1 2 0xFF [0xBE]).isSome = true ∧
      (crcFoldScript 0 1 2 [(1, 5#64)]).isSome = true ∧ .memWrite 0x08 4 0#32 ∈ issueNop := by decide

theorem witness_ExpansionsNeverGetStuck :
    issueCmd 0 1 .nop = some issueNop ∧ (packv 0 1 1 5#64).isSome = true ∧ (crcBuf 0 1 2 0x00 []).isSome = true ∧
      (crcFoldScript 0 1 2 [(8, 5#64)]).isSome = true := by decide

/-- An accepted GETU32 (W = 4), and words that fail each check in turn. -/
theorem witness_IssueAcceptsExactlyTheCheckedCommands :
    (issue 0x00000004#32 (holding true (raw4 true) 3)).busy = true ∧
      (issue 0x00000004#32 (holding true (raw3 true) 2)).err = 3 ∧ (issue 0x00000012#32 (idle true)).err = 2 ∧
      (issue 0x00000013#32 (idle true)).err = 1 ∧ (issue 0x00000000#32 (pending .nop 0 (idle true))).err = 4 := by
  decide

/-- Each clause at a state where its condition holds and no earlier one does. -/
theorem witness_OneErrorInPriorityOrder :
    (pending .nop 0 (idle true)).busy = true ∧ (pending .nop 0 (idle true)).err = 0 ∧
      (decode 0x00010004#32).instr? = none ∧
      (decode 0x00000004#32 = .legal .getu32 ∧ (idle true).valid = false) ∧
      ((holding true (raw3 true) 2).wm1 ≠ 3 ∧ (holding true (raw3 true) 2).valid = true) ∧
      decode 0x00000000#32 = .legal .nop := by decide

theorem witness_OverrunDiscardsTheWord :
    (pending (.crcseed 0x5A) 0 (idle true)).busy = true ∧
      (after (exec (.crcseed 0x5A) (pending (.crcseed 0x5A) 0 (idle true)))).isSome = true ∧
      { pending .nop 0 (idle true) with err := 4 }.err ≠ 0 := by decide

theorem witness_LaterErrorsOnlySetMerr :
    { idle true with err := 2, errcmd := 2 }.err ≠ 0 ∧ (decode 0x000000FF#32).instr? = none ∧
      (after (step (turns [.host] (scripted errclr { idle true with err := 2, merr := true })))).map State.merr =
        some false := by decide

theorem witness_ErrClrClearsTheErrorRecord :
    nextTurn (turns [.host] (scripted errclr (idle true))) = .host ∧
      (turns [.host] (scripted errclr (idle true))).host.script[0]? = some (.memWrite 0x04 4 0x80000000#32) := by decide

theorem witness_RecordedErrorsBlockNothing :
    SameButErrors (pending .nop 0 (idle true)) { pending .nop 0 (idle true) with err := 1, errcmd := 8 } ∧
      (after (exec .nop (pending .nop 0 (idle true)))).isSome = true := ⟨rfl, by decide⟩

theorem witness_OnlyIssueErrClrAndResetTouchTheErrorRecord :
    (after (step (turns [.host] (scripted [wr .cmd 0xFF#32] (idle true))))).map State.err = some 1 := by decide

/-- Both sides of both bounds and of the alignment. -/
theorem witness_OnlyAlignedWordAccessesAreAdmitted :
    admitted 0 4 = true ∧ admitted 0x7C 4 = true ∧ admitted (-4) 4 = false ∧ admitted 0x80 4 = false ∧
      admitted 0x7D 4 = false ∧ admitted 0x10 1 = false ∧
      faultOf (execStmt (.memRead 0x80 4 0) (idle true)) = some .accessNotAdmitted := by decide

/-- The window's registers and a reserved offset, one for each clause. -/
theorem witness_SideEffectsOfAccesses :
    regAt 0x04 = .status ∧ regAt 0x08 = .cmd ∧ regAt 0x10 = .dataLo ∧ regAt 0x14 = .dataHi ∧ regAt 0x00 = .id ∧
      regAt 0x40 = .arr 7 ∧ regAt 0x44 = .reserved ∧ regAt 0x7C = .reserved := by decide

theorem witness_IdleReadsGiveTheRegisters :
    (idle true).busy = false ∧
      ((after (execStmt (.memRead 0x24 4 5) { idle true with arr := raw4 false })).map
        (fun s => varValue 5 s.host.vars)) = some 0x12#32 ∧
      ((after (execStmt (.memRead 0x40 4 5) { idle true with arr := ⟨0, 0, 0, 0, 0, 0, 0, 9⟩ })).map
        (fun s => varValue 5 s.host.vars)) = some 0x09#32 := by decide

theorem witness_BusyReadsAreFreeDraws :
    (pending .nop 0 (idle true)).busy = true ∧
      (after (execStmt (.memRead 0x40 4 5) (pending .nop 0 (idle true)))).map State.readDraws = some 1 := by decide

theorem witness_ResetEventSetsEveryRegister :
    nextTurn (turns [.reset] (pending .nop 0 (holding true (raw4 true) 3))) = .reset := by decide

theorem witness_FirstReadAfterReset :
    nextTurn (turns [.reset] (holding true (raw4 true) 3)) = .reset ∧
      (after (step (turns [.reset] (holding true (raw4 true) 3)))).isSome = true := by decide

theorem witness_StepRunsThePendingCommand :
    nextTurn (turns [.engine] (pending .crcpack 0 (holding true (raw4 true) 3))) = .engine ∧
      (turns [.engine] (pending .crcpack 0 (holding true (raw4 true) 3))).pend = some ⟨0x12#32, 0⟩ ∧
      (turns [.engine] (pending .crcpack 0 (holding true (raw4 true) 3))).busy = true ∧
      decode 0x12#32 = .legal .crcpack := by decide

theorem witness_StepGivesEachAgentItsTurn :
    nextTurn (turns [.host] (scripted [.label 0] (idle true))) = .host ∧
      (turns [.host] (idle true)).host.script.length ≤ (turns [.host] (idle true)).host.pos ∧
      nextTurn (turns [.engine] (idle true)) = .engine ∧ (turns [.engine] (idle true)).busy = false ∧
      (idle true).sched.turns = [] := by decide

theorem witness_CompletionNeedsAPendingCommand :
    faultOf (exec .getbe (idle true)) = some .pendEmpty ∧
      faultOf (exec (.pack 8) (pending (.pack 8) 0 (idle true))) = none := by decide

/-- The two boundary sizes. -/
theorem witness_PackOfAnotherSizeIsRefused :
    sizeOk 0 = false ∧ sizeOk 9 = false ∧ (after (exec (.pack 9) (pending (.pack 9) 0 (idle true)))).isNone = true := by
  decide

/-- Pending states for the result statements: every command, from a packer that holds four bytes. -/
theorem pends (i : Instr) (d : Dword) (s : State) (h : decode (encode i) = .legal i) : Pends (pending i d s) i d :=
  ⟨rfl, _, rfl, h⟩

theorem witness_NopOnlyCompletes : Pends (pending .nop 5 (idle true)) .nop 5 := pends _ _ _ (by decide)

theorem witness_PackCapturesTheSnapshot :
    Pends (pending (.pack 1) 7 (idle false)) (.pack 1) 7 ∧ Pends (pending (.pack 8) 7 (idle true)) (.pack 8) 7 :=
  ⟨pends _ _ _ (by decide), pends _ _ _ (by decide)⟩

theorem witness_GetBeWritesTheBigEndianArray :
    Pends (pending .getbe 0 (holding true (raw4 true) 3)) .getbe 0 := pends _ _ _ (by decide)

theorem witness_GetLeWritesTheLittleEndianArray :
    Pends (pending .getle 0 (holding false (raw4 false) 3)) .getle 0 := pends _ _ _ (by decide)

theorem witness_GetU32ReadsTheRawBytes :
    Pends (pending .getu32 0 (holding true (raw4 true) 3)) .getu32 0 := pends _ _ _ (by decide)

theorem witness_GetU32BeAndLeReadTheArrays :
    Pends (pending .getu32be 0 (holding true (raw4 true) 3)) .getu32be 0 ∧
      Pends (pending .getu32le 0 (holding true (raw4 true) 3)) .getu32le 0 :=
  ⟨pends _ _ _ (by decide), pends _ _ _ (by decide)⟩

theorem witness_UnpackReturnsTheNativeInteger :
    Pends (pending .unpack 0 (holding true (raw3 true) 2)) .unpack 0 := pends _ _ _ (by decide)

theorem witness_CrcCommandsAdvanceTheAccumulator :
    Pends (pending (.crcseed 0xFF) 0 (idle true)) (.crcseed 0xFF) 0 ∧
      Pends (pending (.crcbyte 0x00) 0 (idle true)) (.crcbyte 0x00) 0 ∧
      Pends (pending .crcpack 0 (holding true (raw4 true) 3)) .crcpack 0 :=
  ⟨pends _ _ _ (by decide), pends _ _ _ (by decide), pends _ _ _ (by decide)⟩

/-- One completion of every group. -/
theorem witness_ResultsAreOverwrittenWholeOrLeft :
    (after (exec .getbe (pending .getbe 0 (holding true (raw4 true) 3)))).isSome = true ∧
      (after (exec .unpack (pending .unpack 0 (holding true (raw4 true) 3)))).isSome = true ∧
      (after (exec (.crcseed 1) (pending (.crcseed 1) 0 (idle true)))).isSome = true := by decide

theorem witness_CompletionLeavesTheOtherRegisters :
    (after (exec (.pack 2) (pending (.pack 2) 0 (idle true)))).isSome = true ∧
      (after (exec .getle (pending .getle 0 (holding true (raw4 true) 3)))).isSome = true := by decide

theorem witness_OnlyCompletionsAndResetWriteResults :
    (after (step (turns [.engine] (pending (.pack 4) 0x12345678#64 (idle true))))).map State.raw =
      some (raw4 true) := by decide

theorem witness_WhatSetsAndClearsTheFlags :
    (after (step (turns [.host] (scripted [wr .cmd (encode .nop)] (idle true))))).map State.busy = some true ∧
      (after (step (turns [.engine] (pending .nop 0 (idle true))))).map State.busy = some false ∧
      (after (step (turns [.reset] (holding true (raw4 true) 3)))).map State.valid = some false ∧
      (after (step (turns [.host] (scripted [wr .dataLo 1] (idle true))))).map State.dataLo = some 1 ∧
      (idle true).valid = false ∧
      (after (step (turns [.engine] (pending (.pack 1) 0 (idle true))))).map State.valid = some true := by decide

/-- The invariant in a state with a WIDTH-checked command pending, a value held and an error recorded. -/
theorem inv_busy :
    BlockInv { turns [.engine] (pending .getu32 0 (holding true (raw4 true) 3)) with err := 4, errcmd := 0x12 } where
  busyPending := rfl
  pendingChecked := by
    rintro p hp
    cases hp
    exact ⟨.getu32, by decide, by decide, by decide⟩
  errCode := by decide
  noErrorClean := by intro h; exact absurd h (by decide)
  packerHolds := fun _ => ⟨_, _, holds_4 true⟩
  packerEmpty := by intro h; exact absurd h (by decide)

theorem witness_StepKeepsTheInvariant :
    ∃ s t, BlockInv s ∧ step s = .next t ∧ nextTurn s = .engine := ⟨_, _, inv_busy, rfl, rfl⟩

theorem witness_EngineTurnAlwaysCompletes : ∃ s, BlockInv s ∧ nextTurn s = .engine ∧ s.busy = true :=
  ⟨_, inv_busy, rfl, rfl⟩

theorem witness_WellFormedScriptsNeverGetStuck :
    scriptOk (turns [.host] (scripted issueNop (idle true))).host.script = true ∧
      nextTurn (turns [.host] (scripted issueNop (idle true))) = .host := by decide

theorem witness_HostVariablesStayInCanonicalForm :
    varsOk [(0, 0#32), (1, 5#32), (7, 0#32)] = true ∧
      (after (step (turns [.host] (scripted [rd .id 7] (idle false))))).isSome = true := by decide

theorem witness_PendingCommandSurvivesAnyNumberOfHostTurns :
    (turns (List.replicate 3 .host ++ .engine :: []) (scripted issueNop (pending .nop 0 (idle true)))).busy =
        true ∧
      decode (encode .nop) = .legal .nop ∧ scriptOk issueNop = true := by decide

theorem witness_PackUsesTheDataOfIssue :
    (idle true).busy = false ∧ (pending (.pack 4) 0 (idle true)).busy = true ∧
      (after (exec (.pack 4) (pending (.pack 4) 0 (idle true)))).isSome = true := by decide

theorem witness_UnpackOfPackIsTheValue :
    Pends (pending (.pack 4) 0x12345678#64 (idle true)) (.pack 4) 0x12345678#64 ∧
      ∃ t, exec (.pack 4) (pending (.pack 4) 0x12345678#64 (idle true)) = .next t ∧
        SamePacker t (pending .unpack 0 t) ∧ Pends (pending .unpack 0 t) .unpack 0 :=
  ⟨pends _ _ _ (by decide), _, rfl, ⟨rfl, rfl, rfl, rfl⟩, pends _ _ _ (by decide)⟩

theorem witness_ByteArraysDoNotDependOnNativeOrder :
    Holds (pending .getbe 0 (holding false (raw4 false) 3)) 0x12345678#64 4 ∧
      Pends (pending .getbe 0 (holding false (raw4 false) 3)) .getbe 0 ∧
      Holds (pending .getle 0 (holding true (raw4 true) 3)) 0x12345678#64 4 ∧
      Pends (pending .getle 0 (holding true (raw4 true) 3)) .getle 0 :=
  ⟨holds_4 false, pends _ _ _ (by decide), holds_4 true, pends _ _ _ (by decide)⟩

theorem witness_WordAccessorsOfAFourByteValue :
    Holds (pending .getu32 0 (holding true (raw4 true) 3)) 0x12345678#64 4 ∧
      Pends (pending .getu32 0 (holding true (raw4 true) 3)) .getu32 0 ∧
      Holds (pending .getu32be 0 (holding false (raw4 false) 3)) 0x12345678#64 4 ∧
      Pends (pending .getu32be 0 (holding false (raw4 false) 3)) .getu32be 0 ∧
      Holds (pending .getu32le 0 (holding false (raw4 false) 3)) 0x12345678#64 4 ∧
      Pends (pending .getu32le 0 (holding false (raw4 false) 3)) .getu32le 0 :=
  ⟨holds_4 true, pends _ _ _ (by decide), holds_4 false, pends _ _ _ (by decide), holds_4 false,
    pends _ _ _ (by decide)⟩

/-- The size 8 at its boundary, with big native order. -/
theorem witness_NativeBytesReadBackTheValue : fromNat false (natBytes false 0x0102030405060708#64 8) =
    0x0102030405060708 := by decide

theorem witness_CrcPackFoldsTheBigEndianBytes :
    Holds (pending .crcpack 0 (holding true (raw4 true) 3)) 0x12345678#64 4 ∧
      Pends (pending .crcpack 0 (holding true (raw4 true) 3)) .crcpack 0 := ⟨holds_4 true, pends _ _ _ (by decide)⟩

/-- 0x31 is the remainder of x^8, the quotient being 1. -/
theorem witness_CrcIsThePolynomialRemainder :
    ((0x00#8 : Byte) ^^^ 0x01#8).setWidth 16 <<< 8 = gf2Mul 0x01#8 0x131#16 ^^^ (0x31#8 : Byte).setWidth 16 := by decide

theorem witness_CommandSequenceComputesCrc8 : (idle true).busy = false ∧ (idle true).pend = none := by decide

theorem witness_CommandSequenceComputesTheFold :
    (idle true).busy = false ∧ (idle true).pend = none ∧ [(1, 0xAB#64), (8, 0x0102030405060708#64)] ≠ [] ∧
      ∀ a ∈ [(1, 0xAB#64), (8, 0x0102030405060708#64)], 1 ≤ a.1 ∧ a.1 ≤ 8 := by decide

end Sys2Proof.Tests
end

section
/-! SUPPORT. Rules for turns and their agents (00_scope.md R7, R8, 30_encoding.md R47, 40_command_issue.md R53): whose
turn it is, what taking it does, and what each agent does in a given state. -/

namespace Sys2Proof.Machine

/-- A fixed turn comes first (log 3). -/
theorem nextTurn_of_cons {s : State} {a : Turn} {rest : List Turn} (h : s.sched.turns = a :: rest) :
    nextTurn s = a := by
  simp only [nextTurn, h]

/-- With no fixed turn left, the next one is drawn (log 3). -/
theorem nextTurn_of_nil {s : State} (h : s.sched.turns = []) :
    nextTurn s = Config.freeTurn s.sched.turnDraws := by
  simp only [nextTurn, h]

theorem takeTurn_of_cons {s : State} {a : Turn} {rest : List Turn} (h : s.sched.turns = a :: rest) :
    takeTurn s = { s with sched := { s.sched with turns := rest } } := by
  simp only [takeTurn, h, State.setSched]

theorem takeTurn_of_nil {s : State} (h : s.sched.turns = []) :
    takeTurn s = { s with sched := { s.sched with turnDraws := s.sched.turnDraws + 1 } } := by
  simp only [takeTurn, h, State.setSched]

theorem step_of_host {s : State} (h : nextTurn s = .host) : step s = hostStep (takeTurn s) := by
  simp only [step, h]

theorem step_of_engine {s : State} (h : nextTurn s = .engine) : step s = engineStep (takeTurn s) := by
  simp only [step, h]

/-- The host takes the statement at its position (R47). -/
theorem hostStep_of_stmt {s : State} {st : Stmt} (h : s.host.script[s.host.pos]? = some st) :
    hostStep s = execStmt st s := by
  simp only [hostStep, h]

/-- Past the end of its script the host's turn passes (log 12). -/
theorem hostStep_of_script_end {s : State} (h : s.host.script.length ≤ s.host.pos) : hostStep s = .next s := by
  simp only [hostStep, List.getElem?_eq_none h]

/-- The engine's step is not enabled while idle, so its turn passes (R53, log 12). -/
theorem engineStep_of_idle {s : State} (h : s.busy = false) : engineStep s = .next s := by
  simp [engineStep, h]

end Sys2Proof.Machine
end

section
/-! SUPPORT. The value of a list of bytes read least significant first (00_scope.md R9, R11). -/

namespace Sys2Proof.Machine

/-- `byte(v, i)` as a number (R9). -/
theorem byteOf_toNat (v : Dword) (i : Nat) : (byteOf v i).toNat = v.toNat / 2 ^ (8 * i) % 2 ^ 8 := by
  rw [byteOf, BitVec.extractLsb'_toNat, Nat.shiftRight_eq_div_pow]

/-- One more byte is one more most significant byte. -/
theorem bytesLsbFirst_succ (v : Dword) (w : Nat) : bytesLsbFirst v (w + 1) = bytesLsbFirst v w ++ [byteOf v w] := by
  simp [bytesLsbFirst, List.range_succ]

/-- A byte appended after n others weighs 2^(8n) (R11). -/
theorem sumLsbFirst_append_singleton (a : List Byte) (b : Byte) :
    sumLsbFirst (a ++ [b]) = sumLsbFirst a + 2 ^ (8 * a.length) * b.toNat := by
  induction a with
  | nil => simp [sumLsbFirst]
  | cons x a ih =>
    have hpow : 2 ^ (8 * (a.length + 1)) = 256 * 2 ^ (8 * a.length) := by ring
    simp only [List.cons_append, sumLsbFirst, ih, List.length_cons, hpow]
    ring

/-- The bytes of v sum to v modulo 2^(8w), for every w. -/
theorem sumLsbFirst_bytesLsbFirst (v : Dword) (w : Nat) :
    sumLsbFirst (bytesLsbFirst v w) = v.toNat % 2 ^ (8 * w) := by
  induction w with
  | zero => simp [bytesLsbFirst, sumLsbFirst, Nat.mod_one]
  | succ w ih =>
    calc sumLsbFirst (bytesLsbFirst v (w + 1))
        = v.toNat % 2 ^ (8 * w) + 2 ^ (8 * w) * (v.toNat / 2 ^ (8 * w) % 2 ^ 8) := by
          rw [bytesLsbFirst_succ, sumLsbFirst_append_singleton, ih, bytesLsbFirst_length, byteOf_toNat]
      _ = v.toNat % 2 ^ (8 * (w + 1)) := by rw [← Nat.mod_mul, ← pow_add, Nat.mul_succ]

end Sys2Proof.Machine
end

section
/-! PROOFS. The statements of 00_scope.md. -/

namespace Sys2Proof.Machine

/-- Settles O48: in either order the bytes sum to the value, which `sumLsbFirst_bytesLsbFirst` shows by induction on w. -/
theorem nativeBytesReadBackTheValue : Obligations.NativeBytesReadBackTheValue := by
  unfold Obligations.NativeBytesReadBackTheValue
  intro le v w _
  rw [fromNat_natBytes, sumLsbFirst_bytesLsbFirst]

/-- Settles O23: each turn's rule at the state with the turn taken, which holds the same host and BUSY. -/
theorem stepGivesEachAgentItsTurn : Obligations.StepGivesEachAgentItsTurn := by
  unfold Obligations.StepGivesEachAgentItsTurn
  refine ⟨?stmt, ?scriptEnd, ?idle, ?fixed, ?free⟩
  case stmt =>
    intro s st hturn hst
    rw [step_of_host hturn, hostStep_of_stmt (by rwa [takeTurn_host])]
  case scriptEnd =>
    intro s hturn hend
    rw [step_of_host hturn, hostStep_of_script_end (by rwa [takeTurn_host])]
  case idle =>
    intro s hturn hbusy
    rw [step_of_engine hturn, engineStep_of_idle (by rwa [takeTurn_busy])]
  case fixed => exact fun s a rest h => ⟨nextTurn_of_cons h, takeTurn_of_cons h⟩
  case free => exact fun s h => ⟨nextTurn_of_nil h, takeTurn_of_nil h⟩

end Sys2Proof.Machine
end

section
/-! SUPPORT. The register window while idle (10_state.md R14, R18, R30): where a register stands, what a read gives, and
the value of every register after reset. -/

namespace Sys2Proof.Machine

/-- A register of R14 stands at its own offset alone. -/
theorem off_of_regAt {off : Int} {n : Nat} {r : Reg} (h : admitted off n = true) (hr : regAt off = r)
    (hres : r ≠ .reserved) : off = (r.off : Int) ∧ n = 4 := by
  have hnumber : ∀ q : Nat, q < 32 → regAt (4 * (q : Int)) ≠ .reserved →
      4 * (q : Int) = ((regAt (4 * (q : Int))).off : Int) := by decide
  obtain ⟨rfl, q, hq, rfl⟩ := offset_of_admitted h
  subst hr
  exact ⟨hnumber q hq hres, rfl⟩

theorem regAt_eq_iff {off : Int} {r : Reg} (h : admitted off 4 = true) (hres : r ≠ .reserved) :
    regAt off = r ↔ off = (r.off : Int) :=
  ⟨fun hr => (off_of_regAt h hr hres).1, fun hoff => hoff ▸ (regAt_off r).2⟩

/-- Every offset from 0x44 on is reserved (R30). -/
theorem regAt_of_reserved {off : Int} (h : 0x44 ≤ off) : regAt off = .reserved := by
  obtain ⟨q, hq⟩ : ∃ q, off.toNat / 4 = q + 17 := ⟨off.toNat / 4 - 17, by omega⟩
  rw [regAt, hq]
  rfl

/-- While BUSY = 0 a read gives the true value and changes nothing (R35, R37 item 4). -/
theorem readReg_of_idle {s : State} (h : s.busy = false) (r : Reg) : readReg r s = (trueValue r s, s) := by
  simp [readReg, readValue, h]

/-- While BUSY = 0 the host's read puts the register's value into its variable (R31, R47). -/
theorem memRead_of_idle {s : State} {off : Int} (hb : s.busy = false) (h : admitted off 4 = true) (x : Nat) :
    execStmt (.memRead off 4 x) s = .next (s.setHost (s.host.assign x (trueValue (regAt off) s))) := by
  simp [execStmt, hostRead, h, readReg_of_idle hb]

@[simp] theorem flagWord_getLsbD (b : Bool) (k : Nat) : (flagWord b).getLsbD k = (decide (k = 0) && b) := by
  cases b <;> simp [flagWord, BitVec.getLsbD_one]

/-- STATUS bit by bit (R18), with the VALID and WM1 to be shown. -/
theorem statusWith_getLsbD (s : State) (v : Bool) (m : BitVec 3) {k : Nat} (hk : k < 32) :
    (statusWith s v m).getLsbD k =
      if k = 0 then s.busy else if k = 1 then v else if k < 5 then m.getLsbD (k - 2)
      else if k = 5 then s.nle else if k = 6 then s.merr else if k < 8 then false else s.err.getLsbD (k - 8) := by
  simp only [statusWith, BitVec.getLsbD_or, BitVec.getLsbD_shiftLeft, BitVec.getLsbD_setWidth, flagWord_getLsbD]
  interval_cases k <;> simp

@[simp] theorem get_zero (k : Fin 8) : Lanes.zero.get k = 0#8 := by
  fin_cases k <;> rfl

/-- R14's reset column. -/
theorem trueValue_resetBlock (r : Reg) (s : State) :
    trueValue r s.resetBlock =
      if r = .id then 0x43524338#32 else if r = .status ∧ s.nle = true then 0x00000020#32 else 0#32 := by
  cases r with
  | status => cases h : s.nle <;> simp [trueValue, statusWord, statusWith, flagWord, h]
  | _ => simp [trueValue, Config.idValue]

end Sys2Proof.Machine
end

section
/-! SUPPORT. What a turn of each agent leaves unchanged (40_command_issue.md R51, R53, 20_memory.md R35), said once: the
rules of a step are case analyses over `HostEffect` and `exec_cases`. -/

namespace Sys2Proof.Machine

/-- An issue records one of the errors of R81, or accepts a command that passed every check on an idle block (R51). -/
theorem issue_rejects_or_accepts (c : Word) (s : State) :
    (∃ code, code ≠ errNone ∧ code.toNat ≤ 4 ∧ issue c s = raiseError code c s) ∨
      (s.busy = false ∧ issue c s = s.accept c ∧ ∃ i, decode c = .legal i ∧
        (readsPacker i = true → s.valid = true) ∧ (needsFourBytes i = true → s.wm1 = 3#3)) := by
  obtain ⟨-, h⟩ | ⟨hb, ⟨_, -, h⟩ | ⟨i, hd, ⟨-, -, h⟩ | ⟨hv, ⟨-, -, h⟩ | ⟨hw, h⟩⟩⟩⟩ := issue_cases c s
  · exact .inl ⟨errOverrun, by decide, by decide, h⟩
  · exact .inl ⟨errIllegal, by decide, by decide, h⟩
  · exact .inl ⟨errEmpty, by decide, by decide, h⟩
  · exact .inl ⟨errWidth, by decide, by decide, h⟩
  · exact .inr ⟨hb, h, i, hd, hv, hw⟩

/-- An issue writes PEND, BUSY and the error record, and nothing else (R51, R80). -/
theorem issue_frame (c : Word) (s : State) :
    issue c s = { s with pend := (issue c s).pend, busy := (issue c s).busy, err := (issue c s).err,
                         merr := (issue c s).merr, errcmd := (issue c s).errcmd } := by
  obtain ⟨code, -, -, h⟩ | ⟨-, h, -⟩ := issue_rejects_or_accepts c s
  · obtain ⟨e, m, k, hr⟩ := raiseError_eq code c s
    rw [h, hr]
  · rw [h]; rfl

/-- A command's meaning is a completion, but for a size no word encodes (R53, log 13). -/
theorem exec_eq_complete {i : Instr} (hwf : i.wf = true) (s : State) : ∃ perform, exec i s = complete perform s := by
  cases i with
  | nop => exact ⟨_, exec_nop s⟩
  | pack w => exact ⟨_, exec_pack s hwf⟩
  | getbe => exact ⟨_, exec_getbe s⟩
  | getle => exact ⟨_, exec_getle s⟩
  | getu32 => exact ⟨_, exec_getu32 s⟩
  | getu32be => exact ⟨_, exec_getu32be s⟩
  | getu32le => exact ⟨_, exec_getu32le s⟩
  | unpack => exact ⟨_, exec_unpack s⟩
  | crcseed b => exact ⟨_, exec_crcseed s b⟩
  | crcbyte b => exact ⟨_, exec_crcbyte s b⟩
  | crcpack => exact ⟨_, exec_crcpack s⟩

/-- A completion stops for an empty PEND exactly when PEND is empty (log 11). -/
theorem complete_eq_pendEmpty (perform : Dword → State → State) (s : State) :
    complete perform s = .fault .pendEmpty ↔ s.pend = none := by
  unfold complete
  cases s.pend <;> simp

theorem step_of_reset {s : State} (h : nextTurn s = .reset) : step s = .next (takeTurn s).resetBlock := by
  simp only [step, h]

/-- A completion writes the packer and the results, empties PEND and clears BUSY, and does nothing else (R53). -/
theorem exec_frame {i : Instr} {s t : State} (h : exec i s = .next t) :
    t = { s with raw := t.raw, valid := t.valid, wm1 := t.wm1, crc := t.crc, resLo := t.resLo, resHi := t.resHi,
                 arr := t.arr, pend := none, busy := false } := by
  obtain ⟨p, -, ⟨-, rfl⟩ | ⟨w, -, -, rfl⟩ | ⟨-, a, rfl⟩ | ⟨-, lo, hi, rfl⟩ | ⟨-, v, rfl⟩⟩ := exec_cases h <;> rfl

/-- A completion changes only its own command's group of results (R60 to R75). -/
theorem exec_writes_own_group {i : Instr} {s t : State} (h : exec i s = .next t) :
    (SamePacker s t ∨ ∃ w, i = .pack w) ∧
      (t.crc = s.crc ∨ (∃ b, i = .crcseed b) ∨ (∃ b, i = .crcbyte b) ∨ i = .crcpack) ∧
      ((t.resLo = s.resLo ∧ t.resHi = s.resHi) ∨ i ∈ [.getu32, .getu32be, .getu32le, .unpack]) ∧
      (t.arr = s.arr ∨ i ∈ [.getbe, .getle]) := by
  obtain ⟨p, -, ⟨rfl, rfl⟩ | ⟨w, rfl, -, rfl⟩ | ⟨hgroup, a, rfl⟩ | ⟨hgroup, lo, hi, rfl⟩ | ⟨hgroup, v, rfl⟩⟩ :=
    exec_cases h
  · simp [SamePacker]
  · simp
  · simp [SamePacker, hgroup]
  · simp [SamePacker, hgroup]
  · simp [SamePacker, hgroup]

/-- A completion changes VALID only by setting it, under PACK (R27, R60). -/
theorem exec_valid {i : Instr} {s t : State} (h : exec i s = .next t) :
    t.valid = s.valid ∨ (t.valid = true ∧ ∃ w, i = .pack w) := by
  obtain ⟨p, -, ⟨-, rfl⟩ | ⟨w, rfl, -, rfl⟩ | ⟨-, a, rfl⟩ | ⟨-, lo, hi, rfl⟩ | ⟨-, v, rfl⟩⟩ := exec_cases h
  · exact .inl rfl
  · exact .inr ⟨rfl, w, rfl⟩
  · exact .inl rfl
  · exact .inl rfl
  · exact .inl rfl

/-- What the host's turn does: it moves the host on, and at most one access reaches the block (R35). -/
inductive HostEffect (s : State) : State → Prop
  | quiet (h : HostAgent) : HostEffect s (s.setHost h)
  | draws (h : HostAgent) : HostEffect s (s.countDraw.setHost h)
  | issues (h : HostAgent) (v : Word) (hst : s.host.script[s.host.pos]? = some (.memWrite 0x08 4 v)) :
      HostEffect s ((issue v s).setHost h)
  | writesStatus (h : HostAgent) (v : Word) (hst : s.host.script[s.host.pos]? = some (.memWrite 0x04 4 v)) :
      HostEffect s ((writeStatus v s).setHost h)
  | writesDataLo (h : HostAgent) (v : Word) (hst : s.host.script[s.host.pos]? = some (.memWrite 0x10 4 v)) :
      HostEffect s ((s.setDataLo v).setHost h)
  | writesDataHi (h : HostAgent) (v : Word) (hst : s.host.script[s.host.pos]? = some (.memWrite 0x14 4 v)) :
      HostEffect s ((s.setDataHi v).setHost h)

/-- A write of the register at an admitted offset, as the host's turn (R35). -/
theorem hostEffect_of_memWrite {s : State} {off : Int} {n : Nat} {v : Word} (hadm : admitted off n = true)
    (hst : s.host.script[s.host.pos]? = some (.memWrite off n v)) (h : HostAgent) :
    HostEffect s ((writeReg (regAt off) v s).setHost h) := by
  obtain ⟨hr, hw⟩ | ⟨hr, hw⟩ | ⟨hr, hw⟩ | ⟨hr, hw⟩ | hw := writeReg_cases (regAt off) v s
  · obtain ⟨rfl, rfl⟩ := off_of_regAt hadm hr (by decide)
    exact hw ▸ .issues h v hst
  · obtain ⟨rfl, rfl⟩ := off_of_regAt hadm hr (by decide)
    exact hw ▸ .writesStatus h v hst
  · obtain ⟨rfl, rfl⟩ := off_of_regAt hadm hr (by decide)
    exact hw ▸ .writesDataLo h v hst
  · obtain ⟨rfl, rfl⟩ := off_of_regAt hadm hr (by decide)
    exact hw ▸ .writesDataHi h v hst
  · rw [hw]; exact .quiet h

/-- The host's turn leaves the packer, the results, NLE and the schedule as they are (R20, R23 to R25, R61). -/
theorem HostEffect.frame {s t : State} (h : HostEffect s t) :
    t = { s with dataLo := t.dataLo, dataHi := t.dataHi, busy := t.busy, err := t.err, merr := t.merr,
                 errcmd := t.errcmd, pend := t.pend, host := t.host, readDraws := t.readDraws } := by
  cases h with
  | quiet | draws | writesDataLo | writesDataHi => rfl
  | issues a v => rw [issue_frame]; rfl
  | writesStatus a v => obtain ⟨-, hw⟩ | ⟨-, hw⟩ := writeStatus_cases v s <;> rw [hw] <;> rfl

theorem hostStep_effect {s t : State} (h : hostStep s = .next t) : HostEffect s t := by
  obtain ⟨-, rfl⟩ | ⟨st, hst, hexec⟩ := hostStep_cases h
  · exact .quiet t.host
  · obtain ⟨off, n, v, rfl, hadm, rfl⟩ | ⟨off, n, x, -, -, rfl⟩ | ⟨k, rfl⟩ := execStmt_cases hexec
    · exact hostEffect_of_memWrite hadm hst _
    · obtain hr | hr := readReg_state (regAt off) s
      · rw [hr]; exact .quiet _
      · rw [hr]; exact .draws _
    · exact .quiet _

end Sys2Proof.Machine
end

section
/-! PROOFS. The invariant of 10_state.md (R20, R21, R26, 40_command_issue.md R51, 60_exceptions.md R81): one lemma for
each write of the state, then for each agent's turn. -/

namespace Sys2Proof.Machine

namespace BlockInv

variable {s t : State}

theorem setHost (h : BlockInv s) (a : HostAgent) : BlockInv (s.setHost a) := { h with }

theorem setSched (h : BlockInv s) (d : Sched) : BlockInv (s.setSched d) := { h with }

theorem countDraw (h : BlockInv s) : BlockInv s.countDraw := { h with }

theorem setDataLo (h : BlockInv s) (v : Word) : BlockInv (s.setDataLo v) := { h with }

theorem setDataHi (h : BlockInv s) (v : Word) : BlockInv (s.setDataHi v) := { h with }

theorem setArr (h : BlockInv s) (a : List Byte) : BlockInv (s.setArr a) := { h with }

theorem setRes (h : BlockInv s) (lo hi : Word) : BlockInv (s.setRes lo hi) := { h with }

theorem setCrc (h : BlockInv s) (v : Byte) : BlockInv (s.setCrc v) := { h with }

theorem clearErrors (h : BlockInv s) : BlockInv s.clearErrors :=
  { h with errCode := by simp, noErrorClean := fun _ => ⟨rfl, rfl⟩ }

/-- A recorded error leaves ERR a code of R81, and not 0, so nothing is asked of MERR and ERRCMD. -/
theorem raiseError (h : BlockInv s) {code : BitVec 4} (hle : code.toNat ≤ 4) (hne : code ≠ errNone) (c : Word) :
    BlockInv (raiseError code c s) := by
  obtain ⟨-, he⟩ | ⟨herr, he⟩ := raiseError_cases code c s
  · rw [he]; exact { h with errCode := hle, noErrorClean := fun h0 => absurd h0 hne }
  · rw [he]; exact { h with noErrorClean := fun h0 => absurd h0 herr }

/-- A command that passed its checks (R51) is one the invariant lets be pending. -/
theorem accept (h : BlockInv s) {c : Word} {i : Instr} (hd : decode c = .legal i)
    (hv : readsPacker i = true → s.valid = true) (hw : needsFourBytes i = true → s.wm1 = 3#3) :
    BlockInv (s.accept c) :=
  { h with busyPending := rfl, pendingChecked := by rintro _ ⟨⟩; exact ⟨i, hd, hv, hw⟩ }

theorem issue (h : BlockInv s) (c : Word) : BlockInv (issue c s) := by
  obtain ⟨code, hne, hle, he⟩ | ⟨-, he, i, hd, hv, hw⟩ := issue_rejects_or_accepts c s
  · rw [he]; exact h.raiseError hle hne c
  · rw [he]; exact h.accept hd hv hw

theorem writeStatus (h : BlockInv s) (v : Word) : BlockInv (writeStatus v s) := by
  obtain ⟨-, he⟩ | ⟨-, he⟩ := writeStatus_cases v s
  · rw [he]; exact h.clearErrors
  · rw [he]; exact h

/-- With PEND empty the invariant asks nothing of the packer for the sake of a pending command. -/
theorem retire (h : BlockInv s) : BlockInv s.retire :=
  { h with busyPending := rfl, pendingChecked := by rintro _ ⟨⟩ }

/-- PACK's completion: the packer holds the snapshot (R60). -/
theorem loadPacker_retire (h : BlockInv s) {w : Nat} (hw : sizeOk w = true) (d : Dword) :
    BlockInv (s.loadPacker (natBytes s.nle d w) w).retire :=
  { h with
    busyPending := rfl
    pendingChecked := by rintro _ ⟨⟩
    packerHolds := fun _ => ⟨d, w, hw, rfl, rfl, rfl⟩
    packerEmpty := by rintro ⟨⟩ }

theorem resetBlock (s : State) : BlockInv s.resetBlock where
  busyPending := rfl
  pendingChecked := by rintro _ ⟨⟩
  errCode := by simp
  noErrorClean := fun _ => ⟨rfl, rfl⟩
  packerHolds := by rintro ⟨⟩
  packerEmpty := fun _ => ⟨rfl, rfl⟩

theorem takeTurn (h : BlockInv s) : BlockInv (takeTurn s) := by
  obtain ⟨d, hd⟩ := takeTurn_eq s
  rw [hd]; exact h.setSched d

theorem hostEffect (h : BlockInv s) (heff : HostEffect s t) : BlockInv t := by
  cases heff with
  | quiet a => exact h.setHost a
  | draws a => exact h.countDraw.setHost a
  | issues a v => exact (h.issue v).setHost a
  | writesStatus a v => exact (h.writeStatus v).setHost a
  | writesDataLo a v => exact (h.setDataLo v).setHost a
  | writesDataHi a v => exact (h.setDataHi v).setHost a

theorem exec {i : Instr} (h : BlockInv s) (hexec : exec i s = .next t) : BlockInv t := by
  obtain ⟨p, -, ⟨-, rfl⟩ | ⟨w, -, hw, rfl⟩ | ⟨-, a, rfl⟩ | ⟨-, lo, hi, rfl⟩ | ⟨-, v, rfl⟩⟩ := exec_cases hexec
  · exact h.retire
  · exact h.loadPacker_retire hw p.data
  · exact (h.setArr a).retire
  · exact (h.setRes lo hi).retire
  · exact (h.setCrc v).retire

theorem engineStep (h : BlockInv s) (hstep : engineStep s = .next t) : BlockInv t := by
  obtain ⟨-, rfl⟩ | ⟨-, _, _, -, -, hexec⟩ := engineStep_cases hstep
  · exact h
  · exact h.exec hexec

end BlockInv

/-- Settles O39: each agent's turn keeps the invariant, and the reset event establishes it. -/
theorem stepKeepsTheInvariant : Obligations.StepKeepsTheInvariant := by
  unfold Obligations.StepKeepsTheInvariant
  intro s t h hstep
  obtain ⟨-, hhost⟩ | ⟨-, hengine⟩ | ⟨-, rfl⟩ := step_cases hstep
  · exact h.takeTurn.hostEffect (hostStep_effect hhost)
  · exact h.takeTurn.engineStep hengine
  · exact .resetBlock _

/-- Settles O38: the state right after reset is one the reset event leaves. -/
theorem invariantAtReset : Obligations.InvariantAtReset := by
  unfold Obligations.InvariantAtReset
  exact .resetBlock State.reset

end Sys2Proof.Machine
end

section
/-! PROOFS. The statements of 10_state.md on reads, reset and single completions. -/

namespace Sys2Proof.Machine

/-- Settles O18: each field is read off `statusWith_getLsbD`. -/
theorem statusWordFields : Obligations.StatusWordFields := by
  unfold Obligations.StatusWordFields
  intro s
  have hbit : ∀ k < 32, (statusWord s).getLsbD k = _ := fun k hk => statusWith_getLsbD s s.valid s.wm1 hk
  refine ⟨hbit 0 (by decide), hbit 1 (by decide), ?wm1, hbit 5 (by decide), hbit 6 (by decide), hbit 7 (by decide),
    ?err, ?zeros⟩
  case wm1 =>
    refine BitVec.eq_of_getLsbD_eq fun k hk => ?_
    rw [BitVec.getLsbD_extractLsb', hbit (2 + k) (by omega)]
    simp (disch := omega) only [if_neg, if_pos, Nat.add_sub_cancel_left, hk, decide_true, Bool.true_and]
  case err =>
    refine BitVec.eq_of_getLsbD_eq fun k hk => ?_
    rw [BitVec.getLsbD_extractLsb', hbit (8 + k) (by omega)]
    simp (disch := omega) only [if_neg, Nat.add_sub_cancel_left, hk, decide_true, Bool.true_and]
  case zeros =>
    refine BitVec.eq_of_getLsbD_eq fun k hk => ?_
    rw [BitVec.getLsbD_extractLsb', hbit (12 + k) (by omega)]
    simp (disch := omega) only [if_neg, BitVec.getLsbD_of_ge, BitVec.getLsbD_zero, Bool.and_false]

/-- Settles O17: an idle read assigns the true value, and `regAt_off` names the register at each offset. -/
theorem idleReadsGiveTheRegisters : Obligations.IdleReadsGiveTheRegisters := by
  unfold Obligations.IdleReadsGiveTheRegisters
  intro s off x hb h0 h7C hmod
  have hadm : admitted off 4 = true := (admitted_iff off 4).2 ⟨rfl, h0, h7C, hmod⟩
  refine ⟨_, memRead_of_idle hb hadm x, rfl, rfl, fun y hy => varValue_setVar_of_ne hy _ _, ?_⟩
  simp only [assign_vars, varValue_setVar]
  have hval : ∀ r : Reg, off = (r.off : Int) → trueValue (regAt off) s = trueValue r s :=
    fun r hoff => by rw [hoff, (regAt_off r).2]
  exact ⟨hval .id, hval .status, hval .cmd, hval .errcmd, hval .dataLo, hval .dataHi, hval .resLo, hval .resHi,
    hval .crc, fun k hk => hval (.arr k) (by simpa [Reg.off] using hk),
    fun hres => by rw [regAt_of_reserved hres]; rfl⟩

/-- Settles O20: the reset event leaves `State.resetBlock`'s values, and `State.reset` is a state it leaves. -/
theorem resetEventSetsEveryRegister : Obligations.ResetEventSetsEveryRegister := by
  unfold Obligations.ResetEventSetsEveryRegister
  intro atReset
  have hreset : ∀ s : State, atReset s.resetBlock := fun s =>
    ⟨get_zero, rfl, rfl, rfl, by simp, by simp, get_zero, rfl, rfl, rfl, rfl, rfl, rfl⟩
  refine ⟨⟨hreset State.reset, rfl⟩, fun s hturn => ⟨_, step_of_reset hturn, hreset _, ?_, ?_⟩⟩
  · exact takeTurn_nle s
  · exact takeTurn_host s

/-- Settles O21: the reset event leaves an idle block, and `trueValue_resetBlock` gives each register's value. -/
theorem firstReadAfterReset : Obligations.FirstReadAfterReset := by
  unfold Obligations.FirstReadAfterReset
  intro s t off x hturn hstep h0 h7C hmod
  rw [step_of_reset hturn] at hstep
  cases hstep
  have hadm : admitted off 4 = true := (admitted_iff off 4).2 ⟨rfl, h0, h7C, hmod⟩
  refine ⟨_, memRead_of_idle (resetBlock_busy _) hadm x, ?_⟩
  rw [setHost_host, assign_vars, varValue_setVar, trueValue_resetBlock, takeTurn_nle]
  have hid : regAt off = .id ↔ off = 0x00 := regAt_eq_iff hadm (by decide)
  have hstatus : regAt off = .status ↔ off = 0x04 := regAt_eq_iff hadm (by decide)
  simp only [hid, hstatus]

/-- Settles O24: a well-formed command's meaning is a completion, which stops so exactly with PEND empty. -/
theorem completionNeedsAPendingCommand : Obligations.CompletionNeedsAPendingCommand := by
  unfold Obligations.CompletionNeedsAPendingCommand
  intro i s hwf
  obtain ⟨perform, h⟩ := exec_eq_complete hwf s
  rw [h, complete_eq_pendEmpty]

end Sys2Proof.Machine
end

section
/-! PROOFS. The statements of 10_state.md on every step: for each flag, one lemma that says what a step can do to
it. -/

namespace Sys2Proof.Machine

/-- The engine's turn passes, or completes the command PEND holds in the state with the turn taken (R53). -/
theorem engineTurn_cases {s t : State} (h : engineStep (takeTurn s) = .next t) :
    (s.busy = false ∧ t = takeTurn s) ∨
      (s.busy = true ∧ ∃ p i, s.pend = some p ∧ decode p.word = .legal i ∧ exec i (takeTurn s) = .next t) := by
  simpa only [takeTurn_busy, takeTurn_pend] using engineStep_cases h

/-- No step writes NLE (R61, log 1). -/
theorem step_nle {s t : State} (h : step s = .next t) : t.nle = s.nle := by
  obtain ⟨-, hhost⟩ | ⟨-, hengine⟩ | ⟨-, rfl⟩ := step_cases h
  · rw [(hostStep_effect hhost).frame, takeTurn_nle]
  · obtain ⟨-, rfl⟩ | ⟨-, _, _, -, -, hexec⟩ := engineTurn_cases hengine
    · exact takeTurn_nle s
    · rw [exec_frame hexec, takeTurn_nle]
  · exact takeTurn_nle s

/-- VALID is set by PACK's completion and cleared by reset (R27). -/
theorem step_valid {s t : State} (h : step s = .next t) :
    t.valid = s.valid ∨ (t.valid = false ∧ nextTurn s = .reset) ∨
      (t.valid = true ∧ nextTurn s = .engine ∧ s.busy = true ∧
        ∃ p w, s.pend = some p ∧ decode p.word = .legal (.pack w)) := by
  obtain ⟨-, hhost⟩ | ⟨hturn, hengine⟩ | ⟨hturn, rfl⟩ := step_cases h
  · rw [(hostStep_effect hhost).frame]; exact .inl (takeTurn_valid s)
  · obtain ⟨-, rfl⟩ | ⟨hb, p, i, hp, hd, hexec⟩ := engineTurn_cases hengine
    · exact .inl (takeTurn_valid s)
    · obtain hv | ⟨hv, w, rfl⟩ := exec_valid hexec
      · exact .inl (hv.trans (takeTurn_valid s))
      · exact .inr (.inr ⟨hv, hturn, hb, p, w, hp, hd⟩)
  · exact .inr (.inl ⟨rfl, hturn⟩)

/-- The host's turn changes BUSY only by setting it, with a write of CMD (R27, R51). -/
theorem HostEffect.busy {s t : State} (h : HostEffect s t) :
    t.busy = s.busy ∨ (t.busy = true ∧ ∃ v : Word, s.host.script[s.host.pos]? = some (.memWrite 0x08 4 v)) := by
  cases h with
  | quiet | draws | writesDataLo | writesDataHi => exact .inl rfl
  | issues a v hst =>
    obtain ⟨code, -, -, hi⟩ | ⟨-, hi, -⟩ := issue_rejects_or_accepts v s
    · obtain ⟨e, m, k, hr⟩ := raiseError_eq code v s
      rw [hi, hr]; exact .inl rfl
    · rw [hi]; exact .inr ⟨rfl, v, hst⟩
  | writesStatus a v =>
    obtain ⟨-, hw⟩ | ⟨-, hw⟩ := writeStatus_cases v s <;> rw [hw] <;> exact .inl rfl

/-- BUSY is set by a write of CMD and cleared by a completion or reset (R27). -/
theorem step_busy {s t : State} (h : step s = .next t) :
    t.busy = s.busy ∨ (t.busy = false ∧ (nextTurn s = .engine ∨ nextTurn s = .reset)) ∨
      (t.busy = true ∧ nextTurn s = .host ∧
        ∃ v : Word, s.host.script[s.host.pos]? = some (.memWrite 0x08 4 v)) := by
  obtain ⟨hturn, hhost⟩ | ⟨hturn, hengine⟩ | ⟨hturn, rfl⟩ := step_cases h
  · obtain hb | ⟨hb, hst⟩ := (hostStep_effect hhost).busy
    · exact .inl (hb.trans (takeTurn_busy s))
    · exact .inr (.inr ⟨hb, hturn, by simpa only [takeTurn_host] using hst⟩)
  · obtain ⟨-, rfl⟩ | ⟨-, _, _, -, -, hexec⟩ := engineTurn_cases hengine
    · exact .inl (takeTurn_busy s)
    · rw [exec_frame hexec]; exact .inr (.inl ⟨rfl, .inl hturn⟩)
  · exact .inr (.inl ⟨rfl, .inr hturn⟩)

/-- The host's turn changes a half of DATA only by a write of that half (R22, R35). -/
theorem HostEffect.data {s t : State} (h : HostEffect s t) :
    (t.dataLo = s.dataLo ∨ ∃ v : Word, s.host.script[s.host.pos]? = some (.memWrite 0x10 4 v)) ∧
      (t.dataHi = s.dataHi ∨ ∃ v : Word, s.host.script[s.host.pos]? = some (.memWrite 0x14 4 v)) := by
  cases h with
  | quiet | draws => exact ⟨.inl rfl, .inl rfl⟩
  | writesDataLo a v hst => exact ⟨.inr ⟨v, hst⟩, .inl rfl⟩
  | writesDataHi a v hst => exact ⟨.inl rfl, .inr ⟨v, hst⟩⟩
  | issues a v => rw [issue_frame]; exact ⟨.inl rfl, .inl rfl⟩
  | writesStatus a v =>
    obtain ⟨-, hw⟩ | ⟨-, hw⟩ := writeStatus_cases v s <;> rw [hw] <;> exact ⟨.inl rfl, .inl rfl⟩

/-- A half of DATA changes only by a host write of that half or reset (R22). -/
theorem step_data {s t : State} (h : step s = .next t) :
    (t.dataLo = s.dataLo ∨ nextTurn s = .reset ∨ (nextTurn s = .host ∧
      ∃ v : Word, s.host.script[s.host.pos]? = some (.memWrite 0x10 4 v))) ∧
    (t.dataHi = s.dataHi ∨ nextTurn s = .reset ∨ (nextTurn s = .host ∧
      ∃ v : Word, s.host.script[s.host.pos]? = some (.memWrite 0x14 4 v))) := by
  obtain ⟨hturn, hhost⟩ | ⟨-, hengine⟩ | ⟨hturn, -⟩ := step_cases h
  · have hdata := (hostStep_effect hhost).data
    simp only [takeTurn_dataLo, takeTurn_dataHi, takeTurn_host] at hdata
    exact hdata.imp (.imp_right fun hst => .inr ⟨hturn, hst⟩) (.imp_right fun hst => .inr ⟨hturn, hst⟩)
  · obtain ⟨-, rfl⟩ | ⟨-, _, _, -, -, hexec⟩ := engineTurn_cases hengine
    · exact ⟨.inl (takeTurn_dataLo s), .inl (takeTurn_dataHi s)⟩
    · rw [exec_frame hexec]; exact ⟨.inl (takeTurn_dataLo s), .inl (takeTurn_dataHi s)⟩
  · exact ⟨.inr (.inl hturn), .inr (.inl hturn)⟩

/-- Settles O37: one lemma for each flag says what a step can do to it; a change of value leaves only its cause. -/
theorem whatSetsAndClearsTheFlags : Obligations.WhatSetsAndClearsTheFlags := by
  unfold Obligations.WhatSetsAndClearsTheFlags
  intro s t h
  have hvalid := step_valid h
  have hbusy := step_busy h
  obtain ⟨hlo, hhi⟩ := step_data h
  refine ⟨step_nle h, ?validCleared, ?validSet, ?busySet, ?busyCleared, hlo.resolve_left, hhi.resolve_left⟩
  case validCleared => intro hs ht; simpa [hs, ht] using hvalid
  case validSet => intro hs ht; simpa [hs, ht] using hvalid
  case busySet => intro hs ht; simpa [hs, ht] using hbusy
  case busyCleared => intro hs ht; simpa [hs, ht] using hbusy

/-- Settles O36: the host's frame holds the packer and the results, and a completion writes its own group. -/
theorem onlyCompletionsAndResetWriteResults : Obligations.OnlyCompletionsAndResetWriteResults := by
  unfold Obligations.OnlyCompletionsAndResetWriteResults
  intro s t h
  obtain ⟨-, hhost⟩ | ⟨hturn, hengine⟩ | ⟨hturn, -⟩ := step_cases h
  · rw [(hostStep_effect hhost).frame]
    exact .inr (.inl (by simp [SamePacker]))
  · obtain ⟨-, rfl⟩ | ⟨hb, p, i, hp, hd, hexec⟩ := engineTurn_cases hengine
    · exact .inr (.inl (by simp [SamePacker]))
    · have hgroup := exec_writes_own_group hexec
      simp only [SamePacker, takeTurn_raw, takeTurn_valid, takeTurn_wm1, takeTurn_nle, takeTurn_crc, takeTurn_resLo,
        takeTurn_resHi, takeTurn_arr] at hgroup
      exact .inr (.inr ⟨hturn, hb, p, i, hp, hd, hgroup⟩)
  · exact .inl hturn

end Sys2Proof.Machine
end

section
/-! SUPPORT. The host's accesses (20_memory.md R31, R35): what an admitted read or write answers, and what a write of a
register does at each offset. -/

namespace Sys2Proof.Machine

theorem memRead_of_admitted {off : Int} {n : Nat} (h : admitted off n = true) (x : Nat) (s : State) :
    execStmt (.memRead off n x) s =
      .next ((readReg (regAt off) s).2.setHost (s.host.assign x (readReg (regAt off) s).1)) :=
  if_pos h

theorem memWrite_of_admitted {off : Int} {n : Nat} (h : admitted off n = true) (v : Word) (s : State) :
    execStmt (.memWrite off n v) s = .next ((writeReg (regAt off) v s).setHost s.host.advance) :=
  if_pos h

/-- The host is stuck on a read the block does not admit (R31, log 5). -/
theorem memRead_of_not_admitted {off : Int} {n : Nat} (h : ¬ admitted off n = true) (x : Nat) (s : State) :
    execStmt (.memRead off n x) s = .fault .accessNotAdmitted :=
  if_neg h

/-- The host is stuck on a write the block does not admit (R31, log 5). -/
theorem memWrite_of_not_admitted {off : Int} {n : Nat} (h : ¬ admitted off n = true) (v : Word) (s : State) :
    execStmt (.memWrite off n v) s = .fault .accessNotAdmitted :=
  if_neg h

/-- A read leaves the block as it was, whatever it gives the host (R35). -/
theorem sameBlock_readReg_setHost (r : Reg) (s : State) (h : HostAgent) :
    SameBlock s ((readReg r s).2.setHost h) := by
  obtain hr | hr := readReg_state r s <;> rw [hr] <;> rfl

@[simp] theorem issue_host (c : Word) (s : State) : (issue c s).host = s.host := by
  rw [issue_frame]

/-- The block writes nothing of the host agent (R7). -/
@[simp] theorem writeReg_host (r : Reg) (v : Word) (s : State) : (writeReg r v s).host = s.host := by
  obtain ⟨-, hw⟩ | ⟨-, hw⟩ | ⟨-, hw⟩ | ⟨-, hw⟩ | hw := writeReg_cases r v s
  · rw [hw, issue_host]
  · obtain ⟨-, hs⟩ | ⟨-, hs⟩ := writeStatus_cases v s <;> simp [hw, hs]
  · rw [hw]; rfl
  · rw [hw]; rfl
  · rw [hw]

/-- A write at a register's own offset writes that register (R14). -/
theorem writeReg_regAt_of_eq {off : Int} (r : Reg) (hoff : off = (r.off : Int)) (v : Word) (s : State) :
    writeReg (regAt off) v s = writeReg r v s := by
  rw [hoff, (regAt_off r).2]

theorem writeStatus_of_set {v : Word} (h : v.getLsbD 31 = true) (s : State) : writeStatus v s = s.clearErrors :=
  if_pos h

theorem writeStatus_of_clear {v : Word} (h : v.getLsbD 31 = false) (s : State) : writeStatus v s = s :=
  if_neg (Bool.eq_false_iff.mp h)

/-- A write at any offset but those of CMD, STATUS and the two halves of DATA is ignored (R30, R35). -/
theorem writeReg_regAt_ignored {off : Int} (hadm : admitted off 4 = true) (hcmd : off ≠ 0x08) (hstatus : off ≠ 0x04)
    (hlo : off ≠ 0x10) (hhi : off ≠ 0x14) (v : Word) (s : State) : writeReg (regAt off) v s = s := by
  obtain ⟨hr, -⟩ | ⟨hr, -⟩ | ⟨hr, -⟩ | ⟨hr, -⟩ | hw := writeReg_cases (regAt off) v s
  · exact absurd (off_of_regAt hadm hr (by decide)).1 hcmd
  · exact absurd (off_of_regAt hadm hr (by decide)).1 hstatus
  · exact absurd (off_of_regAt hadm hr (by decide)).1 hlo
  · exact absurd (off_of_regAt hadm hr (by decide)).1 hhi
  · exact hw

end Sys2Proof.Machine
end

section
/-! PROOFS. The statements of 20_memory.md. -/

namespace Sys2Proof.Machine

/-- Settles O14: `admitted_iff` is R31's condition, and it alone decides whether an access has a step. -/
theorem onlyAlignedWordAccessesAreAdmitted : Obligations.OnlyAlignedWordAccessesAreAdmitted := by
  unfold Obligations.OnlyAlignedWordAccessesAreAdmitted
  intro s off n x v isAdmitted
  have hiff : admitted off n = true ↔ isAdmitted := admitted_iff off n
  rw [← hiff]
  exact ⟨fun h => ⟨⟨_, memRead_of_admitted h x s⟩, ⟨_, memWrite_of_admitted h v s⟩⟩,
    fun h => ⟨memRead_of_not_admitted h x s, memWrite_of_not_admitted h v s⟩⟩

/-- Settles O15: 4 divides BASE, so an address is aligned exactly when its offset is. -/
theorem windowStandsAtBase : Obligations.WindowStandsAtBase := by
  unfold Obligations.WindowStandsAtBase
  have hbase : Config.base % 128 = 0 := Nat.mul_mod_right 128 Config.basePage
  refine ⟨hbase, fun a => ?_⟩
  rw [admitted_iff, busOffset]
  omega

/-- Settles O16: with the host agent put back, an admitted write leaves what `writeReg` leaves at that offset. -/
theorem sideEffectsOfAccesses : Obligations.SideEffectsOfAccesses := by
  unfold Obligations.SideEffectsOfAccesses
  intro s off h0 h7C hmod
  have hadm : admitted off 4 = true := (admitted_iff off 4).2 ⟨rfl, h0, h7C, hmod⟩
  refine ⟨fun x => ⟨_, memRead_of_admitted hadm x s, sameBlock_readReg_setHost _ s _⟩,
    fun v => ⟨_, memWrite_of_admitted hadm v s, rfl, ?_⟩⟩
  have hblock : { (writeReg (regAt off) v s).setHost s.host.advance with host := s.host } =
      writeReg (regAt off) v s := by
    rw [← writeReg_host (regAt off) v s]; rfl
  rw [hblock]
  refine ⟨?cmd, ?errclr, ?statusClear, ?dataLo, ?dataHi, ?ignored⟩
  case cmd => exact fun hoff => writeReg_regAt_of_eq .cmd hoff v s
  case errclr => exact fun hoff hv => (writeReg_regAt_of_eq .status hoff v s).trans (writeStatus_of_set hv s)
  case statusClear => exact fun hoff hv => (writeReg_regAt_of_eq .status hoff v s).trans (writeStatus_of_clear hv s)
  case dataLo => exact fun hoff => writeReg_regAt_of_eq .dataLo hoff v s
  case dataHi => exact fun hoff => writeReg_regAt_of_eq .dataHi hoff v s
  case ignored => exact fun hcmd hstatus hlo hhi => writeReg_regAt_ignored hadm hcmd hstatus hlo hhi v s

end Sys2Proof.Machine
end

section
/-! SUPPORT. Command words and their fields (30_encoding.md R41 to R45): a word put together from its fields, the words
of the commands with an operand, and which fields a legal word has. -/

namespace Sys2Proof

/-- The command word with these fields and RSV = 0 (R41). -/
def wordOf (wm1 : BitVec 3) (imm opc : Byte) : Word := 0#13 ++ wm1 ++ imm ++ opc

section Fields

variable (wm1 : BitVec 3) (imm opc : Byte)

@[simp] theorem rsvField_wordOf : rsvField (wordOf wm1 imm opc) = 0#13 := by
  simp (disch := omega) only [rsvField, wordOf, BitVec.extractLsb'_append_eq_of_le, Nat.reduceSub,
    BitVec.extractLsb'_eq_self]

@[simp] theorem wm1Field_wordOf : wm1Field (wordOf wm1 imm opc) = wm1 := by
  simp (disch := omega) only [wm1Field, wordOf, BitVec.extractLsb'_append_eq_of_le,
    BitVec.extractLsb'_append_eq_of_add_le, Nat.reduceSub, BitVec.extractLsb'_eq_self]

@[simp] theorem immField_wordOf : immField (wordOf wm1 imm opc) = imm := by
  simp (disch := omega) only [immField, wordOf, BitVec.extractLsb'_append_eq_of_le,
    BitVec.extractLsb'_append_eq_of_add_le, Nat.reduceSub, BitVec.extractLsb'_eq_self]

@[simp] theorem opcField_wordOf : opcField (wordOf wm1 imm opc) = opc := by
  simp (disch := omega) only [opcField, wordOf, BitVec.extractLsb'_append_eq_of_add_le, BitVec.extractLsb'_eq_self]

end Fields

/-- A word with RSV = 0 is put together from its other three fields (R41). -/
theorem wordOf_fields {c : Word} (hrsv : rsvField c = 0#13) :
    wordOf (wm1Field c) (immField c) (opcField c) = c := by
  rw [wordOf, ← hrsv, ← command_fields c]

/-- PACK's word (R44): WM1 is the size less one (R42). -/
theorem encode_pack (wm1 : BitVec 3) : encode (.pack (wm1.toNat + 1)) = wordOf wm1 0#8 0x01#8 := by
  revert wm1
  decide

/-- CRCSEED's word (R44): IMM8 is the operand. -/
theorem encode_crcseed (b : Byte) : encode (.crcseed b) = wordOf 0#3 b 0x10#8 := by
  revert b
  decide +kernel

/-- CRCBYTE's word (R44): IMM8 is the operand. -/
theorem encode_crcbyte (b : Byte) : encode (.crcbyte b) = wordOf 0#3 b 0x11#8 := by
  revert b
  decide +kernel

theorem sizeOk_iff (w : Nat) : sizeOk w = true ↔ 1 ≤ w ∧ w ≤ 8 := decide_eq_true_iff

/-- The sizes PACK encodes are those of the three bits of WM1, plus one (R42). -/
theorem sizeOk_iff_wm1 (w : Nat) : sizeOk w = true ↔ ∃ wm1 : BitVec 3, wm1.toNat + 1 = w := by
  rw [sizeOk_iff]
  constructor
  · rintro ⟨h1, h8⟩
    exact ⟨BitVec.ofNat 3 (w - 1), by rw [BitVec.toNat_ofNat]; omega⟩
  · rintro ⟨wm1, rfl⟩
    omega

/-- The decoder reads the encoder's word of a well-formed command as that command (R44). -/
theorem decode_encode {i : Instr} (h : i.wf = true) : decode (encode i) = .legal i := by
  cases i with
  | pack w =>
    obtain ⟨wm1, rfl⟩ := (sizeOk_iff_wm1 w).1 h
    simp [encode_pack, decode, decodePack]
  | crcseed b => simp [encode_crcseed, decode, decodeImm]
  | crcbyte b => simp [encode_crcbyte, decode, decodeImm]
  | _ => rfl

/-- A command with no operand is read when WM1 and IMM8 are 0 (R45 items 3 and 4). -/
theorem decodeBare_eq_legal (c : Word) (i j : Instr) :
    decodeBare c j = .legal i ↔ wm1Field c = 0#3 ∧ immField c = 0#8 ∧ j = i := by
  unfold decodeBare
  split_ifs <;> simp_all

/-- A command with an immediate is read when WM1 is 0 (R45 item 3). -/
theorem decodeImm_eq_legal (c : Word) (f : Byte → Instr) (i : Instr) :
    decodeImm c f = .legal i ↔ wm1Field c = 0#3 ∧ f (immField c) = i := by
  unfold decodeImm
  split_ifs <;> simp_all

/-- PACK is read when IMM8 is 0 (R45 item 4). -/
theorem decodePack_eq_legal (c : Word) (i : Instr) :
    decodePack c = .legal i ↔ immField c = 0#8 ∧ .pack ((wm1Field c).toNat + 1) = i := by
  unfold decodePack
  split_ifs <;> simp_all

/-- A command with no operand is read only from its own word (R44). -/
theorem encode_of_decodeBare {c : Word} {i j : Instr} {opc : Byte} (hrsv : rsvField c = 0#13) (hopc : opcField c = opc)
    (hj : j.wf = true ∧ encode j = wordOf 0#3 0#8 opc) (h : decodeBare c j = .legal i) :
    i.wf = true ∧ encode i = c := by
  obtain ⟨hwm1, himm, rfl⟩ := (decodeBare_eq_legal c i j).1 h
  rwa [← hwm1, ← himm, ← hopc, wordOf_fields hrsv] at hj

/-- A command with an immediate is read only from its own words (R44). -/
theorem encode_of_decodeImm {c : Word} {i : Instr} {f : Byte → Instr} {opc : Byte} (hrsv : rsvField c = 0#13)
    (hopc : opcField c = opc) (hf : ∀ b, (f b).wf = true ∧ encode (f b) = wordOf 0#3 b opc)
    (h : decodeImm c f = .legal i) : i.wf = true ∧ encode i = c := by
  obtain ⟨hwm1, rfl⟩ := (decodeImm_eq_legal c f i).1 h
  simpa only [← hwm1, ← hopc, wordOf_fields hrsv] using hf (immField c)

/-- PACK is read only from its own words (R44). -/
theorem encode_of_decodePack {c : Word} {i : Instr} (hrsv : rsvField c = 0#13) (hopc : opcField c = 0x01#8)
    (h : decodePack c = .legal i) : i.wf = true ∧ encode i = c := by
  obtain ⟨himm, rfl⟩ := (decodePack_eq_legal c i).1 h
  refine ⟨(sizeOk_iff_wm1 _).2 ⟨_, rfl⟩, ?_⟩
  rw [encode_pack, ← himm, ← hopc, wordOf_fields hrsv]

/-- The decoder reads a command only from the encoder's word of it (R44). -/
theorem encode_of_decode {c : Word} {i : Instr} (h : decode c = .legal i) : i.wf = true ∧ encode i = c := by
  unfold decode at h
  split_ifs at h with hrsv
  rw [not_not] at hrsv
  have hopcode {n : Nat} (hopc : (opcField c).toNat = n) : opcField c = BitVec.ofNat 8 n := by
    rw [← hopc, BitVec.ofNat_toNat, BitVec.setWidth_eq]
  split at h
  case h_2 hopc => exact encode_of_decodePack hrsv (hopcode hopc) h
  case h_9 hopc => exact encode_of_decodeImm hrsv (hopcode hopc) (fun b => ⟨rfl, encode_crcseed b⟩) h
  case h_10 hopc => exact encode_of_decodeImm hrsv (hopcode hopc) (fun b => ⟨rfl, encode_crcbyte b⟩) h
  case h_12 => cases h
  all_goals
    rename_i hopc
    exact encode_of_decodeBare hrsv (hopcode hopc) ⟨rfl, rfl⟩ h

/-- The decoder and the encoder are inverse on well-formed commands (R44). -/
theorem decode_eq_legal_iff (c : Word) (i : Instr) : decode c = .legal i ↔ i.wf = true ∧ encode i = c := by
  refine ⟨encode_of_decode, ?_⟩
  rintro ⟨hwf, rfl⟩
  exact decode_encode hwf

/-- The fields of the legal words (R44, R45): an assigned opcode, RSV = 0, a size only with PACK, an immediate only with
CRCSEED and CRCBYTE. -/
theorem legal_iff_fields (c : Word) :
    (∃ i, decode c = .legal i) ↔
      rsvField c = 0#13 ∧ ((opcField c).toNat ≤ 0x07 ∨ 0x10 ≤ (opcField c).toNat ∧ (opcField c).toNat ≤ 0x12) ∧
        (wm1Field c = 0#3 ∨ (opcField c).toNat = 0x01) ∧
        (immField c = 0#8 ∨ (opcField c).toNat = 0x10 ∨ (opcField c).toNat = 0x11) := by
  unfold decode
  split_ifs with hrsv
  · simp [hrsv]
  · rw [not_not] at hrsv
    split
    case h_12 =>
      simp only [reduceCtorEq, exists_false, false_iff]
      rintro ⟨-, hopc, -, -⟩
      simp only [imp_false] at *
      omega
    all_goals simp [decodeBare_eq_legal, decodeImm_eq_legal, decodePack_eq_legal, *]

/-- The masks of R43 cover OPC and RSV. -/
theorem opcodeMap_masks : ∀ r ∈ opcodeMap,
    opcField r.mask = BitVec.allOnes 8 ∧ rsvField r.mask = BitVec.allOnes 13 ∧ rsvField r.bits = 0#13 := by
  decide

/-- No two rows of R43 have the same opcode. -/
theorem row_eq_of_opcField : ∀ r ∈ opcodeMap, ∀ q ∈ opcodeMap, opcField r.bits = opcField q.bits → r = q := by
  decide

/-- A word that selects a row has the row's opcode and RSV = 0 (R43). -/
theorem opcField_of_selects {r : OpcodeRow} (hr : r ∈ opcodeMap) {c : Word} (h : r.selects c = true) :
    opcField c = opcField r.bits ∧ rsvField c = 0#13 := by
  obtain ⟨hopc, hrsv, hzero⟩ := opcodeMap_masks r hr
  obtain ⟨hopc', -, -, hrsv'⟩ := fields_and c r.mask
  have hbits : c &&& r.mask = r.bits := beq_iff_eq.1 h
  rw [hbits, hopc, BitVec.and_allOnes] at hopc'
  rw [hbits, hrsv, BitVec.and_allOnes, hzero] at hrsv'
  exact ⟨hopc'.symm, hrsv'.symm⟩

/-- The word of every well-formed command selects its own row alone (R43, R44). -/
theorem selectsRow (i : Instr) : Laws.SelectsRow.Statement i := by
  cases i with
  | nop => exact Laws.SelectsRow.nop
  | pack w => exact Laws.SelectsRow.pack w
  | getbe => exact Laws.SelectsRow.getbe
  | getle => exact Laws.SelectsRow.getle
  | getu32 => exact Laws.SelectsRow.getu32
  | getu32be => exact Laws.SelectsRow.getu32be
  | getu32le => exact Laws.SelectsRow.getu32le
  | unpack => exact Laws.SelectsRow.unpack
  | crcseed b => exact Laws.SelectsRow.crcseed b
  | crcbyte b => exact Laws.SelectsRow.crcbyte b
  | crcpack => exact Laws.SelectsRow.crcpack

/-- A legal word selects the row with its command's mnemonic (R43). -/
theorem row_of_legal {c : Word} {i : Instr} (h : decode c = .legal i) :
    ∃ r ∈ opcodeMap, r.mnemonic = mnemonicOf i ∧ r.selects c = true := by
  obtain ⟨hwf, rfl⟩ := encode_of_decode h
  have hmem : mnemonicOf i ∈ (opcodeMap.filter (fun r => r.selects (encode i))).map OpcodeRow.mnemonic := by
    rw [selectsRow i hwf]
    exact List.mem_singleton_self _
  obtain ⟨r, hr, hname⟩ := List.mem_map.1 hmem
  obtain ⟨hrow, hsel⟩ := List.mem_filter.1 hr
  exact ⟨r, hrow, hname, hsel⟩

/-- The rows of R43 by field: an assigned opcode, and masks that cover WM1 but for PACK and IMM8 but for CRCSEED and
CRCBYTE. -/
theorem opcodeMap_fields : ∀ r ∈ opcodeMap,
    ((opcField r.bits).toNat ≤ 0x07 ∨ 0x10 ≤ (opcField r.bits).toNat ∧ (opcField r.bits).toNat ≤ 0x12) ∧
      (wm1Field r.mask = BitVec.allOnes 3 ∧ wm1Field r.bits = 0#3 ∨ (opcField r.bits).toNat = 0x01) ∧
      (immField r.mask = BitVec.allOnes 8 ∧ immField r.bits = 0#8 ∨
        (opcField r.bits).toNat = 0x10 ∨ (opcField r.bits).toNat = 0x11) := by
  decide

/-- A word that selects a row has the fields of a legal word (R43, R45). -/
theorem legal_of_selects {r : OpcodeRow} (hr : r ∈ opcodeMap) {c : Word} (h : r.selects c = true) :
    ∃ i, decode c = .legal i := by
  obtain ⟨hopc, hrsv⟩ := opcField_of_selects hr h
  obtain ⟨-, himm, hwm1, -⟩ := fields_and c r.mask
  obtain ⟨hopcode, hsize, himmediate⟩ := opcodeMap_fields r hr
  rw [beq_iff_eq.1 h] at himm hwm1
  rw [legal_iff_fields, hopc]
  refine ⟨hrsv, hopcode, hsize.imp_left ?_, himmediate.imp_left ?_⟩
  · rintro ⟨hmask, hbits⟩
    rwa [hmask, BitVec.and_allOnes, hbits, eq_comm] at hwm1
  · rintro ⟨hmask, hbits⟩
    rwa [hmask, BitVec.and_allOnes, hbits, eq_comm] at himm

end Sys2Proof
end

section
/-! SUPPORT. The list of the well-formed commands, family by family as R44 counts them, and the assembler's answers
(30_encoding.md R48). -/

namespace Sys2Proof

/-- The eight commands without an operand (R43). -/
def bareCommands : List Instr := [.nop, .getbe, .getle, .getu32, .getu32be, .getu32le, .unpack, .crcpack]

/-- Every value of WM1 (R41). -/
def allSizes : List (BitVec 3) := (List.finRange 8).map BitVec.ofFin

/-- Every value of IMM8 (R41). -/
def allBytes : List Byte := (List.finRange 256).map BitVec.ofFin

/-- Every well-formed command, once. -/
def commands : List Instr :=
  bareCommands ++ (allSizes.map (fun m => .pack (m.toNat + 1)) ++ (allBytes.map .crcseed ++ allBytes.map .crcbyte))

theorem mem_map_ofFin (n : Nat) (v : BitVec n) : v ∈ (List.finRange (2 ^ n)).map BitVec.ofFin :=
  List.mem_map.2 ⟨v.toFin, List.mem_finRange _, rfl⟩

theorem nodup_map_ofFin (n : Nat) : ((List.finRange (2 ^ n)).map BitVec.ofFin).Nodup :=
  (List.nodup_finRange _).map fun _ _ h => BitVec.ofFin.inj h

/-- The list is complete. -/
theorem mem_commands (i : Instr) : i ∈ commands ↔ i.wf = true := by
  have hsize (m : BitVec 3) : m ∈ allSizes := mem_map_ofFin 3 m
  have hbyte (b : Byte) : b ∈ allBytes := mem_map_ofFin 8 b
  cases i with
  | pack w =>
    have hfamily : .pack w ∈ commands ↔ ∃ m : BitVec 3, m.toNat + 1 = w := by
      simp [commands, bareCommands, hsize]
    exact hfamily.trans (sizeOk_iff_wm1 w).symm
  | crcseed b => simp [commands, bareCommands, hbyte, Instr.wf]
  | crcbyte b => simp [commands, bareCommands, hbyte, Instr.wf]
  | _ => simp [commands, bareCommands, Instr.wf]

/-- The families have no command in common, and each has its own without repeats. -/
theorem nodup_commands : commands.Nodup := by
  have hsizes : allSizes.Nodup := nodup_map_ofFin 3
  have hbytes : allBytes.Nodup := nodup_map_ofFin 8
  have hpack : (allSizes.map fun m => Instr.pack (m.toNat + 1)).Nodup :=
    hsizes.map fun a b h => BitVec.eq_of_toNat_eq (by simpa using h)
  have hseed : (allBytes.map Instr.crcseed).Nodup := hbytes.map fun _ _ h => Instr.crcseed.inj h
  have hbyte : (allBytes.map Instr.crcbyte).Nodup := hbytes.map fun _ _ h => Instr.crcbyte.inj h
  have hbare : bareCommands.Nodup := by decide
  refine hbare.append (hpack.append (hseed.append hbyte ?_) ?_) ?_
  · simp [List.disjoint_left]
  · simp [List.disjoint_left]
  · simp [List.disjoint_left, bareCommands]

/-- The words of two commands differ (R44). -/
theorem encode_injective_of_wf {i j : Instr} (hi : i.wf = true) (hj : j.wf = true) (h : encode i = encode j) :
    i = j := by
  have hdec := decode_encode hi
  rw [h, decode_encode hj] at hdec
  exact (Decoded.legal.inj hdec).symm

namespace Machine

theorem assemble_pack (w : Nat) : assemble "PACK" (some w) = if sizeOk w then some (.pack w) else none := rfl

theorem assemble_crcseed (v : Nat) :
    assemble "CRCSEED" (some v) = if v ≤ 0xFF then some (.crcseed (BitVec.ofNat 8 v)) else none := rfl

theorem assemble_crcbyte (v : Nat) :
    assemble "CRCBYTE" (some v) = if v ≤ 0xFF then some (.crcbyte (BitVec.ofNat 8 v)) else none := rfl

/-- What the assembler gives is well formed and has the written mnemonic (R48). -/
theorem assemble_eq_some {m : String} {o : Option Nat} {i : Instr} (h : assemble m o = some i) :
    i.wf = true ∧ mnemonicOf i = m := by
  unfold assemble at h
  split at h
  case h_2 =>
    split_ifs at h with hsize
    cases h
    exact ⟨hsize, rfl⟩
  case h_9 | h_10 =>
    split_ifs at h
    cases h
    exact ⟨rfl, rfl⟩
  case h_12 => cases h
  all_goals
    cases h
    exact ⟨rfl, rfl⟩

/-- An illegal word issued while BUSY = 0 records ILLEGAL (R45, R51). -/
theorem issue_of_illegal {c : Word} {why : Illegal} {s : State} (hb : s.busy = false) (hd : decode c = .illegal why) :
    issue c s = raiseError errIllegal c s := by
  simp [issue, hb, hd]

end Machine

end Sys2Proof
end

section
/-! PROOFS. The statements of 30_encoding.md on command words and the assembler. -/

namespace Sys2Proof.Machine

/-- Settles O1: a legal word is put together from the fields of its command, so it is that command's word; the encoder's
word has the fields the decoder asks for. -/
theorem decodeAndEncodeAreInverse : Obligations.DecodeAndEncodeAreInverse := by
  unfold Obligations.DecodeAndEncodeAreInverse
  exact decode_eq_legal_iff

/-- Settles O2: the rows have distinct opcodes, which their masks cover; a legal word is its command's word, which
selects its own row, and a word that selects a row has the fields of a legal word. -/
theorem decodeFollowsTheOpcodeMap : Obligations.DecodeFollowsTheOpcodeMap := by
  unfold Obligations.DecodeFollowsTheOpcodeMap
  refine fun c => ⟨?unique, fun i => row_of_legal, ?illegal⟩
  case unique =>
    intro r hr q hq hrc hqc
    exact row_eq_of_opcField r hr q hq ((opcField_of_selects hr hrc).1.symm.trans (opcField_of_selects hq hqc).1)
  case illegal =>
    rw [illegal_iff_not_legal]
    constructor
    · intro h r hr
      exact Bool.eq_false_iff.2 fun hsel => h (legal_of_selects hr hsel)
    · rintro h ⟨i, hi⟩
      obtain ⟨r, hr, -, hsel⟩ := row_of_legal hi
      exact absurd hsel (Bool.eq_false_iff.1 (h r hr))

/-- Settles O3: the words that are not legal, field by field, and the two cases of `raiseError`. -/
theorem illegalWordsAndTheirEffect : Obligations.IllegalWordsAndTheirEffect := by
  unfold Obligations.IllegalWordsAndTheirEffect
  intro c opc illegal
  have hiff : (∃ why, decode c = .illegal why) ↔ illegal := by
    rw [illegal_iff_not_legal, legal_iff_fields]
    have hunassigned : ¬ (opc ≤ 0x07 ∨ 0x10 ≤ opc ∧ opc ≤ 0x12) ↔ (0x08 ≤ opc ∧ opc ≤ 0x0F) ∨ 0x13 ≤ opc := by
      omega
    have hopc : (opcField c).toNat = opc := rfl
    rw [hopc, not_and_or, not_and_or, not_and_or, hunassigned, not_or, not_or, not_or]
    change _ ↔ (0x08 ≤ opc ∧ opc ≤ 0x0F) ∨ 0x13 ≤ opc ∨ rsvField c ≠ 0#13 ∨
        (wm1Field c ≠ 0#3 ∧ opc ≠ 0x01) ∨ (immField c ≠ 0#8 ∧ opc ≠ 0x10 ∧ opc ≠ 0x11)
    tauto
  refine ⟨hiff, fun hill s hb => ?_⟩
  obtain ⟨why, hd⟩ := hiff.2 hill
  rw [issue_of_illegal hb hd]
  exact ⟨fun herr => if_pos herr, fun herr => if_neg herr⟩

/-- Settles O4: the words of every well-formed command, which `encode` keeps apart. -/
theorem legalWordsNumber528 : Obligations.LegalWordsNumber528 := by
  unfold Obligations.LegalWordsNumber528
  refine ⟨commands.map encode, ?nodup, ?length, fun c => ?legal⟩
  case nodup =>
    exact nodup_commands.map_on fun i hi j hj =>
      encode_injective_of_wf ((mem_commands i).1 hi) ((mem_commands j).1 hj)
  case length => simp [commands, bareCommands, allSizes, allBytes]
  case legal => simp only [List.mem_map, mem_commands, decode_eq_legal_iff]

/-- Settles O5, by running the decoder. -/
theorem writtenOutWordsDecode : Obligations.WrittenOutWordsDecode := by
  unfold Obligations.WrittenOutWordsDecode
  decide

/-- Settles O25: `exec_pack_illFormed`, for a size outside 1 to 8. -/
theorem packOfAnotherSizeIsRefused : Obligations.PackOfAnotherSizeIsRefused := by
  unfold Obligations.PackOfAnotherSizeIsRefused
  intro w s hw
  have hsize : ¬ sizeOk w = true := by
    rw [sizeOk_iff]
    omega
  exact exec_pack_illFormed s (Bool.eq_false_iff.2 hsize)

/-- Settles O6: what `assemble` gives is well formed, so it decodes back; the refusals are its three equations with an
operand. -/
theorem assemblerNeverEmitsAnIllegalWord : Obligations.AssemblerNeverEmitsAnIllegalWord := by
  unfold Obligations.AssemblerNeverEmitsAnIllegalWord
  refine ⟨?given, fun w => ?packAccepted, fun v => ?seedAccepted, fun v => ?byteAccepted, fun w h1 h8 => ?pack,
    fun b => ?immediate, fun i hi => ?bare, ?operandMissing⟩
  case given =>
    intro m o i h
    obtain ⟨hwf, hname⟩ := assemble_eq_some h
    exact ⟨hwf, decode_encode hwf, hname⟩
  case packAccepted => simp [assemble_pack, ← sizeOk_iff]
  case seedAccepted => simp [assemble_crcseed]
  case byteAccepted => simp [assemble_crcbyte]
  case pack => rw [assemble_pack, if_pos ((sizeOk_iff w).2 ⟨h1, h8⟩)]
  case immediate =>
    have hb : b.toNat ≤ 0xFF := Nat.le_of_lt_succ b.isLt
    simp [assemble_crcseed, assemble_crcbyte, hb]
  case bare => fin_cases hi <;> exact ⟨rfl, fun v => rfl⟩
  case operandMissing => decide

end Sys2Proof.Machine
end

section
/-! SUPPORT. The host's turn (30_encoding.md R47): a well-formed statement has a next state, and the host's variables
stay strictly rising. -/

namespace Sys2Proof.Machine

/-- A branch whose label stands exactly once has a place to go to (R47). -/
theorem branch_progress {l : Nat} {s : State} (h : (labelPositions l 0 s.host.script).length = 1) (taken : Bool) :
    ∃ t, branch taken l s = .next t ∧ t.host.script = s.host.script := by
  obtain ⟨k, hk⟩ := List.length_eq_one_iff.1 h
  cases taken with
  | false => exact ⟨_, rfl, rfl⟩
  | true => exact ⟨s.setHost { s.host with pos := k }, by simp [branch, jump, hk], rfl⟩

/-- A well-formed statement never gets the host stuck, and leaves the script as it is (R31, R47). -/
theorem execStmt_progress {st : Stmt} {s : State} (h : stmtOk s.host.script st = true) :
    ∃ t, execStmt st s = .next t ∧ t.host.script = s.host.script := by
  cases st with
  | memWrite off n v => exact ⟨_, memWrite_of_admitted h v s, rfl⟩
  | memRead off n x => exact ⟨_, memRead_of_admitted h x s, rfl⟩
  | label l => exact ⟨_, rfl, rfl⟩
  | bnz x m l => exact branch_progress (beq_iff_eq.1 h) _
  | bz x m l => exact branch_progress (beq_iff_eq.1 h) _

/-- A well-formed script gives the host's turn a next state (R47). -/
theorem hostStep_progress {s : State} (h : scriptOk s.host.script = true) :
    ∃ t, hostStep s = .next t ∧ t.host.script = s.host.script := by
  cases hst : s.host.script[s.host.pos]? with
  | none => exact ⟨s, by simp only [hostStep, hst], rfl⟩
  | some st =>
    rw [hostStep_of_stmt hst]
    exact execStmt_progress (List.all_eq_true.1 h st (List.mem_of_getElem? hst))

/-- The canonical form, with the first variable below every other. -/
theorem varsOk_cons (a : Nat × Word) (vars : List (Nat × Word)) :
    varsOk (a :: vars) = true ↔ (∀ b ∈ vars, a.1 < b.1) ∧ varsOk vars = true := by
  induction vars generalizing a with
  | nil => simp [varsOk]
  | cons b rest ih =>
    have htwo : varsOk (a :: b :: rest) = true ↔ a.1 < b.1 ∧ varsOk (b :: rest) = true := by simp [varsOk]
    rw [htwo, ih, List.forall_mem_cons]
    constructor
    · rintro ⟨hab, hb, hrest⟩
      exact ⟨⟨hab, fun c hc => hab.trans (hb c hc)⟩, hb, hrest⟩
    · rintro ⟨⟨hab, -⟩, hrest⟩
      exact ⟨hab, hrest⟩

/-- A write of a variable adds no other variable. -/
theorem mem_setVar {x : Nat} {v : Word} {b : Nat × Word} {vars : List (Nat × Word)} (h : b ∈ setVar x v vars) :
    b = (x, v) ∨ b ∈ vars := by
  induction vars with
  | nil => simpa [setVar] using h
  | cons a rest ih =>
    simp only [setVar] at h
    split_ifs at h with hlt heq
    · exact List.mem_cons.1 h
    · exact (List.mem_cons.1 h).imp_right (List.mem_cons_of_mem a)
    · obtain rfl | h := List.mem_cons.1 h
      · exact .inr (List.mem_cons_self ..)
      · exact (ih h).imp_right (List.mem_cons_of_mem a)

/-- A write of a variable keeps the canonical form. -/
theorem varsOk_setVar (x : Nat) (v : Word) {vars : List (Nat × Word)} (h : varsOk vars = true) :
    varsOk (setVar x v vars) = true := by
  induction vars with
  | nil => rfl
  | cons a rest ih =>
    obtain ⟨hfirst, hrest⟩ := (varsOk_cons a rest).1 h
    simp only [setVar]
    split_ifs with hlt heq
    · exact (varsOk_cons _ _).2 ⟨List.forall_mem_cons.2 ⟨hlt, fun b hb => hlt.trans (hfirst b hb)⟩, h⟩
    · exact (varsOk_cons _ _).2 ⟨fun b hb => heq ▸ hfirst b hb, hrest⟩
    · refine (varsOk_cons _ _).2 ⟨fun b hb => ?_, ih hrest⟩
      obtain rfl | hb := mem_setVar hb
      · show a.1 < x
        omega
      · exact hfirst b hb

/-- The host's turn changes its variables only by a read, which sets one (R47). -/
theorem hostStep_vars {s t : State} (h : hostStep s = .next t) :
    t.host.vars = s.host.vars ∨ ∃ x v, t.host.vars = setVar x v s.host.vars := by
  obtain ⟨-, rfl⟩ | ⟨st, -, hexec⟩ := hostStep_cases h
  · exact .inl rfl
  · obtain ⟨off, n, v, -, -, rfl⟩ | ⟨off, n, x, -, -, rfl⟩ | ⟨k, rfl⟩ := execStmt_cases hexec
    · exact .inl rfl
    · exact .inr ⟨x, _, rfl⟩
    · exact .inl rfl

/-- The engine's turn leaves the host agent as it is (R7). -/
theorem engineStep_host {s t : State} (h : engineStep s = .next t) : t.host = s.host := by
  obtain ⟨-, rfl⟩ | ⟨-, _, _, -, -, hexec⟩ := engineStep_cases h
  · rfl
  · rw [exec_frame hexec]

end Sys2Proof.Machine
end

section
/-! SUPPORT. The expansions of the pseudo-instructions (30_encoding.md R48, R49): each of their parts is well placed,
with labels of its own, and so is what the parts make up. -/

namespace Sys2Proof.Machine

/-- What every expansion of R49 keeps, with the labels from a to b its own: the host is stuck in none of its statements,
and every word it writes to CMD is legal. -/
structure WellPlaced (a b : Nat) (script : List Stmt) : Prop where
  ordered : a ≤ b
  notStuck : scriptOk script = true
  ownLabels : ∀ l, .label l ∈ script → a ≤ l ∧ l < b
  legalWords : ∀ c, .memWrite 0x08 4 c ∈ script → ∃ i, decode c = .legal i

/-- A statement stays well-formed when other labels are added to its script. -/
theorem stmtOk_of_count_eq {script script' : List Stmt} {st : Stmt} (h : stmtOk script st = true)
    (hcount : ∀ l, .label l ∈ script → script'.count (.label l) = script.count (.label l)) :
    stmtOk script' st = true := by
  have hbranch (l : Nat) (hl : (labelPositions l 0 script).length = 1) : (labelPositions l 0 script').length = 1 := by
    rw [labelPositions_length] at hl ⊢
    rw [hcount l (List.count_pos_iff.1 (by omega)), hl]
  cases st with
  | memWrite | memRead | label => exact h
  | bnz x m l => exact beq_iff_eq.2 (hbranch l (beq_iff_eq.1 h))
  | bz x m l => exact beq_iff_eq.2 (hbranch l (beq_iff_eq.1 h))

/-- One expansion after another, the labels of the second from where those of the first end. -/
theorem WellPlaced.append {a b c : Nat} {p q : List Stmt} (hp : WellPlaced a b p) (hq : WellPlaced b c q) :
    WellPlaced a c (p ++ q) where
  ordered := hp.ordered.trans hq.ordered
  notStuck := by
    have hnotBoth (l : Nat) : .label l ∈ p → .label l ∉ q := fun h1 h2 =>
      absurd (hp.ownLabels l h1).2 (Nat.not_lt.2 (hq.ownLabels l h2).1)
    refine List.all_eq_true.2 fun st hst => ?_
    rcases List.mem_append.1 hst with hst | hst
    · refine stmtOk_of_count_eq (List.all_eq_true.1 hp.notStuck st hst) fun l hl => ?_
      rw [List.count_append, List.count_eq_zero.2 (hnotBoth l hl), Nat.add_zero]
    · refine stmtOk_of_count_eq (List.all_eq_true.1 hq.notStuck st hst) fun l hl => ?_
      rw [List.count_append, List.count_eq_zero.2 (fun h => hnotBoth l h hl), Nat.zero_add]
  ownLabels l hl := by
    have hab := hp.ordered
    have hbc := hq.ordered
    rcases List.mem_append.1 hl with hl | hl
    · have := hp.ownLabels l hl
      omega
    · have := hq.ownLabels l hl
      omega
  legalWords c hc := (List.mem_append.1 hc).elim (hp.legalWords c) (hq.legalWords c)

/-- Whatever an expansion gives is well placed; a refused one gives nothing. -/
def Expands (a b : Nat) (expansion : Option (List Stmt)) : Prop :=
  ∀ script, expansion = some script → WellPlaced a b script

theorem expands_some {a b : Nat} {script : List Stmt} (h : WellPlaced a b script) : Expands a b (some script) := by
  rintro _ ⟨⟩
  exact h

/-- The empty expansion. -/
theorem expands_nil (a : Nat) : Expands a a (joined []) :=
  expands_some ⟨le_rfl, rfl, by simp, by simp⟩

/-- An expansion made of parts, each with its labels from where those of the part before end. -/
theorem expands_cons {a b c : Nat} {part : Option (List Stmt)} {rest : List (Option (List Stmt))}
    (hpart : Expands a b part) (hrest : Expands b c (joined rest)) : Expands a c (joined (part :: rest)) := by
  intro script h
  cases part with
  | none => cases h
  | some p =>
    obtain ⟨q, hq, rfl⟩ := Option.map_eq_some_iff.1 h
    exact (hpart p rfl).append (hrest q hq)

/-- A read of a register places no label and writes nothing. -/
theorem wellPlaced_rd (a : Nat) (r : Reg) (x : Nat) : WellPlaced a a [rd r x] where
  ordered := le_rfl
  notStuck := by simp [scriptOk, stmtOk, rd, regAt_off]
  ownLabels := by simp [rd]
  legalWords := by simp [rd]

/-- `LOADV` places no label and writes DATA alone. -/
theorem wellPlaced_loadv (a : Nat) (v : Dword) : WellPlaced a a (loadv v) where
  ordered := le_rfl
  notStuck := by simp [loadv, scriptOk, stmtOk, wr, regAt_off]
  ownLabels := by simp [loadv, wr]
  legalWords := by simp [loadv, wr, Reg.off]

/-- `WAIT` branches to its one label, which it places. -/
theorem wellPlaced_wait (l x : Nat) : WellPlaced l (l + 1) (wait l x) where
  ordered := Nat.le_succ l
  notStuck := by simp [wait, scriptOk, stmtOk, rd, regAt_off, labelPositions]
  ownLabels := by simp [wait, rd]
  legalWords := by simp [wait, rd]

/-- `CMD` writes the word of a command the assembler gives, which is legal. -/
theorem expands_cmd (a : Nat) (i : Instr) : Expands a a (cmd i) := by
  intro script h
  obtain ⟨hwf, rfl⟩ := (cmd_eq_some i script).1 h
  refine ⟨le_rfl, by simp [scriptOk, stmtOk, wr, regAt_off], by simp [wr], fun c hc => ⟨i, ?_⟩⟩
  obtain rfl : c = encode i := by simpa [wr, Reg.off] using hc
  exact decode_encode hwf

/-! One lemma per pseudo-instruction: the labels it uses (R49), in the order its parts take them. -/

theorem expands_issueCmd (l x : Nat) (i : Instr) : Expands l (l + 1) (issueCmd l x i) :=
  expands_cons (expands_some (wellPlaced_wait l x)) (expands_cons (expands_cmd _ i) (expands_nil _))

theorem expands_packv (l x w : Nat) (v : Dword) : Expands l (l + 1) (packv l x w v) :=
  expands_cons (expands_some (wellPlaced_loadv l v)) (expands_cons (expands_issueCmd l x _) (expands_nil _))

theorem expands_feedBytes (l x : Nat) (data : List Byte) : Expands l (l + data.length) (feedBytes l x data) := by
  induction data generalizing l with
  | nil => exact expands_nil l
  | cons b rest ih =>
    have hrest : Expands (l + 1) (l + (b :: rest).length) (feedBytes (l + 1) x rest) := by
      simpa only [List.length_cons, Nat.add_assoc, Nat.add_comm 1] using ih (l + 1)
    exact expands_cons (expands_issueCmd l x _) (expands_cons hrest (expands_nil _))

theorem expands_crcBuf (l x r : Nat) (s : Byte) (data : List Byte) :
    Expands l (l + 1 + data.length + 1) (crcBuf l x r s data) :=
  expands_cons (expands_issueCmd l x _) (expands_cons (expands_feedBytes (l + 1) x data)
    (expands_cons (expands_some (wellPlaced_wait _ x)) (expands_cons (expands_some (wellPlaced_rd _ .crc r))
      (expands_nil _))))

theorem expands_foldArgs (l x : Nat) (args : List (Nat × Dword)) :
    Expands l (l + 2 * args.length) (foldArgs l x args) := by
  induction args generalizing l with
  | nil => exact expands_nil l
  | cons a rest ih =>
    have hrest : Expands (l + 2) (l + 2 * (a :: rest).length) (foldArgs (l + 2) x rest) := by
      simpa only [List.length_cons, Nat.mul_succ, Nat.add_assoc, Nat.add_comm 2] using ih (l + 2)
    exact expands_cons (expands_packv l x a.1 a.2) (expands_cons (expands_issueCmd (l + 1) x _)
      (expands_cons hrest (expands_nil _)))

theorem expands_crcFoldScript (l x r : Nat) (args : List (Nat × Dword)) :
    Expands l (l + 1 + 2 * args.length + 1) (crcFoldScript l x r args) := by
  have hrounds : Expands (l + 1) (l + 1 + 2 * args.length) (foldArgs (l + 1) x args.reverse) := by
    simpa only [List.length_reverse] using expands_foldArgs (l + 1) x args.reverse
  unfold crcFoldScript
  split_ifs
  · rintro _ ⟨⟩
  · exact expands_cons (expands_issueCmd l x _) (expands_cons hrounds
      (expands_cons (expands_some (wellPlaced_wait _ x)) (expands_cons (expands_some (wellPlaced_rd _ .crc r))
        (expands_nil _))))

/-- The scripts the pseudo-instructions ISSUE, PACKV, CRCBUF and CRCFOLD expand to (R49). -/
def IsExpansion (script : List Stmt) : Prop :=
  (∃ l x i, issueCmd l x i = some script) ∨ (∃ l x w v, packv l x w v = some script) ∨
    (∃ l x r s data, crcBuf l x r s data = some script) ∨ ∃ l x r args, crcFoldScript l x r args = some script

theorem wellPlaced_of_expansion {script : List Stmt} (h : IsExpansion script) : ∃ a b, WellPlaced a b script := by
  obtain ⟨l, x, i, h⟩ | ⟨l, x, w, v, h⟩ | ⟨l, x, r, s, data, h⟩ | ⟨l, x, r, args, h⟩ := h
  · exact ⟨_, _, expands_issueCmd l x i script h⟩
  · exact ⟨_, _, expands_packv l x w v script h⟩
  · exact ⟨_, _, expands_crcBuf l x r s data script h⟩
  · exact ⟨_, _, expands_crcFoldScript l x r args script h⟩

/-- `PACKV` is refused exactly for a size PACK is refused for. -/
theorem packv_isSome (l x w : Nat) (v : Dword) : (packv l x w v).isSome = true ↔ sizeOk w = true := by
  cases h : sizeOk w
  · simp [packv_refused h]
  · simp [packv_of_size h]

/-- `CRCFOLD` is refused exactly with no argument or a size PACK is refused for. -/
theorem crcFoldScript_isSome (l x r : Nat) (args : List (Nat × Dword)) :
    (crcFoldScript l x r args).isSome = true ↔ args ≠ [] ∧ ∀ a ∈ args, sizeOk a.1 = true := by
  by_cases h : args = []
  · simp [crcFoldScript, h]
  · simp [crcFoldScript, h, joined_isSome, crcclr_eq, foldArgs_isSome]

end Sys2Proof.Machine
end

section
/-! PROOFS. The statements of 30_encoding.md on the host's scripts. -/

namespace Sys2Proof.Machine

/-- Settles O41: the host's turn takes a statement of the script, and each has a next state. -/
theorem wellFormedScriptsNeverGetStuck : Obligations.WellFormedScriptsNeverGetStuck := by
  unfold Obligations.WellFormedScriptsNeverGetStuck
  intro s hok hturn
  rw [step_of_host hturn, ← takeTurn_host s]
  exact hostStep_progress (by rwa [takeTurn_host])

/-- Settles O42: only a read of the host's turn changes a variable, and `setVar` puts it in its place. -/
theorem hostVariablesStayInCanonicalForm : Obligations.HostVariablesStayInCanonicalForm := by
  unfold Obligations.HostVariablesStayInCanonicalForm
  refine ⟨rfl, fun s t hok h => ?_⟩
  rw [← takeTurn_host s] at hok
  obtain ⟨-, hhost⟩ | ⟨-, hengine⟩ | ⟨-, rfl⟩ := step_cases h
  · obtain hvars | ⟨x, v, hvars⟩ := hostStep_vars hhost
    · rwa [hvars]
    · rw [hvars]
      exact varsOk_setVar x v hok
  · rwa [engineStep_host hengine]
  · exact hok

/-- Settles O57: the refusals of each expansion come from its parts, and every expansion is well placed. -/
theorem expansionsNeverEmitAnIllegalWord : Obligations.ExpansionsNeverEmitAnIllegalWord := by
  unfold Obligations.ExpansionsNeverEmitAnIllegalWord
  refine ⟨fun l x w v => ?packv, fun l x r w v => ?crc8v, fun l x r args => ?fold, fun l x r s data => ?buf,
    fun script c h hc => ?legal⟩
  case packv => rw [packv_isSome, sizeOk_iff]
  case crc8v => simp [crc8v, crcFoldScript_isSome, sizeOk_iff]
  case fold => simp only [crcFoldScript_isSome, sizeOk_iff]
  case buf => simp [crcBuf, joined_isSome, issueCmd_of_wf (i := .crcseed s) rfl, feedBytes_isSome]
  case legal =>
    obtain ⟨a, b, hplaced⟩ := wellPlaced_of_expansion h
    exact hplaced.legalWords c hc

/-- Settles O58: every expansion is well placed. -/
theorem expansionsNeverGetStuck : Obligations.ExpansionsNeverGetStuck := by
  unfold Obligations.ExpansionsNeverGetStuck
  intro script h
  obtain ⟨a, b, hplaced⟩ := wellPlaced_of_expansion h
  exact hplaced.notStuck

end Sys2Proof.Machine
end

section
/-! SUPPORT. Issue and completion (40_command_issue.md R51 to R53, R57): when a command is accepted, what the engine
answers with a command pending, and what a completion does not read or change. -/

namespace Sys2Proof.Machine

/-- R52's commands that need a value in the packer. -/
theorem readsPacker_iff_mem (i : Instr) :
    readsPacker i = true ↔ i ∈ [.getbe, .getle, .getu32, .getu32be, .getu32le, .unpack, .crcpack] := by
  cases i <;> simp [readsPacker]

/-- R52's commands that need W = 4. -/
theorem needsFourBytes_iff_mem (i : Instr) :
    needsFourBytes i = true ↔ i ∈ [.getu32, .getu32be, .getu32le] := by
  cases i <;> simp [needsFourBytes]

/-- A command that passes every check on an idle block is accepted (R51). -/
theorem issue_of_checked {c : Word} {i : Instr} {s : State} (hb : s.busy = false) (hd : decode c = .legal i)
    (hv : readsPacker i = true → s.valid = true) (hw : needsFourBytes i = true → s.wm1 = 3#3) :
    issue c s = s.accept c := by
  obtain ⟨hbusy, -⟩ | ⟨-, ⟨why, hill, -⟩ | ⟨j, hj, hcase⟩⟩ := issue_cases c s
  · simp [hb] at hbusy
  · simp [hd] at hill
  · obtain rfl : i = j := Decoded.legal.inj (hd.symm.trans hj)
    obtain ⟨hr, hempty, -⟩ | ⟨-, ⟨hn, hwidth, -⟩ | ⟨-, haccept⟩⟩ := hcase
    · simp [hv hr] at hempty
    · exact absurd (hw hn) hwidth
    · exact haccept

/-- A well-formed command that is pending completes (R53). -/
theorem exec_progress {i : Instr} {s : State} {p : Pending} (hwf : i.wf = true) (hp : s.pend = some p) :
    ∃ t, exec i s = .next t := by
  obtain ⟨perform, h⟩ := exec_eq_complete hwf s
  exact ⟨_, h.trans (complete_of_pend hp perform)⟩

/-- A completion leaves the block idle (R53). -/
theorem exec_idle {i : Instr} {s t : State} (h : exec i s = .next t) : t.busy = false ∧ t.pend = none := by
  rw [exec_frame h]
  exact ⟨rfl, rfl⟩

/-- The engine runs the command PEND holds (R53). -/
theorem engineStep_of_pending {s : State} {p : Pending} {i : Instr} (hb : s.busy = true) (hp : s.pend = some p)
    (hd : decode p.word = .legal i) : engineStep s = exec i s := by
  simp only [engineStep, hb, hp, hd, if_true]

/-- The same as a step, with the engine's turn next. -/
theorem step_of_pending {s : State} {p : Pending} {i : Instr} (hturn : nextTurn s = .engine) (hb : s.busy = true)
    (hp : s.pend = some p) (hd : decode p.word = .legal i) : step s = exec i (takeTurn s) := by
  rw [step_of_engine hturn]
  exact engineStep_of_pending (by rwa [takeTurn_busy]) (by rwa [takeTurn_pend]) hd

/-- In a state of the invariant the engine's turn answers an idle block (R53). -/
theorem engineStep_progress {s : State} (h : BlockInv s) :
    ∃ t, engineStep s = .next t ∧ t.busy = false ∧ t.pend = none := by
  cases hp : s.pend with
  | none =>
    have hb : s.busy = false := by rw [h.busyPending, hp]; rfl
    exact ⟨s, engineStep_of_idle hb, hb, hp⟩
  | some p =>
    have hb : s.busy = true := by rw [h.busyPending, hp]; rfl
    obtain ⟨i, hd, -, -⟩ := h.pendingChecked p hp
    obtain ⟨t, ht⟩ := exec_progress ((decode_eq_legal_iff _ i).1 hd).1 hp
    exact ⟨t, (engineStep_of_pending hb hp hd).trans ht, exec_idle ht⟩

/-- An update of the state that a command's effect does not see passes through its completion. -/
theorem complete_commutes {perform : Dword → State → State} {g : State → State} {s t : State}
    (hpend : ∀ u, (g u).pend = u.pend) (hretire : ∀ u, (g u).retire = g u.retire)
    (hperform : ∀ d u, perform d (g u) = g (perform d u)) (h : complete perform s = .next t) :
    complete perform (g s) = .next (g t) := by
  obtain ⟨p, hp, rfl⟩ := (complete_eq_next _ _ _).1 h
  rw [complete_of_pend ((hpend s).trans hp), hperform, hretire]

/-- A size no word encodes has no completion (log 13). -/
theorem wf_of_exec {i : Instr} {s t : State} (h : exec i s = .next t) : i.wf = true := by
  cases i with
  | pack w =>
    by_contra hw
    rw [exec_pack_illFormed s (Bool.eq_false_iff.2 hw)] at h
    cases h
  | _ => rfl

/-- No command's effect reads or writes DATA: PACK takes the snapshot in PEND (R57). -/
theorem exec_eq_complete_blind_to_data {i : Instr} (hwf : i.wf = true) (lo hi : Word) :
    ∃ perform, (∀ s, exec i s = complete perform s) ∧
      ∀ d u, perform d ((u.setDataLo lo).setDataHi hi) = ((perform d u).setDataLo lo).setDataHi hi := by
  cases i with
  | nop => exact ⟨_, exec_nop, fun _ _ => rfl⟩
  | pack w => exact ⟨_, fun s => exec_pack s hwf, fun _ _ => rfl⟩
  | getbe => exact ⟨_, exec_getbe, fun _ _ => rfl⟩
  | getle => exact ⟨_, exec_getle, fun _ _ => rfl⟩
  | getu32 => exact ⟨_, exec_getu32, fun _ _ => rfl⟩
  | getu32be => exact ⟨_, exec_getu32be, fun _ _ => rfl⟩
  | getu32le => exact ⟨_, exec_getu32le, fun _ _ => rfl⟩
  | unpack => exact ⟨_, exec_unpack, fun _ _ => rfl⟩
  | crcseed b => exact ⟨_, fun s => exec_crcseed s b, fun _ _ => rfl⟩
  | crcbyte b => exact ⟨_, fun s => exec_crcbyte s b, fun _ _ => rfl⟩
  | crcpack => exact ⟨_, exec_crcpack, fun _ _ => rfl⟩

/-- No completion depends on DATA, or changes it (R53, R57). -/
theorem exec_setData {i : Instr} {s t : State} (lo hi : Word) (h : exec i s = .next t) :
    exec i ((s.setDataLo lo).setDataHi hi) = .next ((t.setDataLo lo).setDataHi hi) := by
  obtain ⟨perform, heq, hblind⟩ := exec_eq_complete_blind_to_data (wf_of_exec h) lo hi
  rw [heq] at h ⊢
  exact complete_commutes (g := fun u => (u.setDataLo lo).setDataHi hi) (fun _ => rfl) (fun _ => rfl) hblind h

/-- In STATUS a completion changes BUSY, and VALID and WM1 only with the packer (R18, R53). -/
theorem exec_statusWord_getLsbD {i : Instr} {s t : State} (h : exec i s = .next t) {b : Nat} (hb : b < 32)
    (h0 : b ≠ 0) (hpacker : SamePacker s t ∨ 5 ≤ b) : (statusWord t).getLsbD b = (statusWord s).getLsbD b := by
  have hframe := exec_frame h
  have herr : t.err = s.err := by rw [hframe]
  have hmerr : t.merr = s.merr := by rw [hframe]
  have hnle : t.nle = s.nle := by rw [hframe]
  rw [statusWord, statusWord, statusWith_getLsbD _ _ _ hb, statusWith_getLsbD _ _ _ hb, if_neg h0, if_neg h0, herr,
    hmerr, hnle]
  obtain ⟨-, hvalid, hwm1, -⟩ | h5 := hpacker
  · rw [hvalid, hwm1]
  · simp (disch := omega) only [if_neg]

end Sys2Proof.Machine
end

section
/-! SUPPORT. Reads while BUSY = 1 (40_command_issue.md R55): which registers are hidden, and what a read gives. -/

namespace Sys2Proof.Machine

/-- The registers a read hides while BUSY = 1 stand at 0x18 to 0x40 (R14, R55). -/
theorem hiddenWhileBusy_regAt {off : Int} (h : admitted off 4 = true) :
    hiddenWhileBusy (regAt off) = true ↔ 0x18 ≤ off ∧ off ≤ 0x40 := by
  have hnumber : ∀ q : Nat, q < 32 → (hiddenWhileBusy (regAt (4 * (q : Int))) = true ↔
      0x18 ≤ 4 * (q : Int) ∧ 4 * (q : Int) ≤ 0x40) := by decide
  obtain ⟨-, q, hq, rfl⟩ := offset_of_admitted h
  exact hnumber q hq

/-- While BUSY = 1 the host's read takes a draw and puts what it gives into its variable (R55, R47). -/
theorem memRead_of_busy {s : State} {off : Int} (hb : s.busy = true) (h : admitted off 4 = true) (x : Nat) :
    execStmt (.memRead off 4 x) s =
      .next (s.countDraw.setHost (s.host.assign x (readValue (regAt off) (nextDraw s) s))) := by
  simp [memRead_of_admitted h, readReg, hb]

/-- While BUSY = 1, RES, CRC and ARR read as the draw (R55). -/
theorem readValue_of_hidden {r : Reg} {s : State} (hb : s.busy = true) (hr : hiddenWhileBusy r = true) (d : Word) :
    readValue r d s = d := by
  simp [readValue, hb, hr]

/-- While BUSY = 1, the VALID and WM1 of STATUS are fields of the draw (R55). -/
theorem readValue_status_of_busy {s : State} (hb : s.busy = true) (d : Word) :
    readValue .status d s = statusWith s (drawnValid d) (drawnWm1 d) := by
  simp [readValue, hb, hiddenWhileBusy]

/-- Every other register reads true, busy or not (R55). -/
theorem readValue_of_shown {r : Reg} (hr : hiddenWhileBusy r = false) (hstatus : r ≠ .status) (d : Word) (s : State) :
    readValue r d s = trueValue r s := by
  simp [readValue, hr, hstatus]

/-- STATUS with the drawn VALID and WM1: bits 4:1 are the draw's, every other bit is true (R18, R55). -/
theorem statusWith_drawn_getLsbD (s : State) (d : Word) {b : Nat} (hb : b < 32) :
    (statusWith s (drawnValid d) (drawnWm1 d)).getLsbD b =
      (if 1 ≤ b ∧ b ≤ 4 then d else statusWord s).getLsbD b := by
  split_ifs with hdrawn
  · obtain ⟨h1, h4⟩ := hdrawn
    rw [statusWith_getLsbD _ _ _ hb]
    interval_cases b <;> simp [drawnValid, drawnWm1]
  · have h0 : b = 0 ∨ 5 ≤ b := by omega
    rw [statusWord, statusWith_getLsbD _ _ _ hb, statusWith_getLsbD _ _ _ hb]
    simp (disch := omega) only [if_neg]

end Sys2Proof.Machine
end

section
/-! SUPPORT. The host's turns between issue and completion (40_command_issue.md R54, R56, R57): what they write of DATA
and the error record, and what a pending command's wait leaves unchanged. -/

namespace Sys2Proof.Machine

/-- A host write of DATA_LO (R22, R35). -/
theorem memWrite_dataLo (v : Word) (s : State) :
    execStmt (.memWrite 0x10 4 v) s = .next ((s.setDataLo v).setHost s.host.advance) :=
  memWrite_of_admitted (by decide) v s

/-- A host write of DATA_HI (R22, R35). -/
theorem memWrite_dataHi (v : Word) (s : State) :
    execStmt (.memWrite 0x14 4 v) s = .next ((s.setDataHi v).setHost s.host.advance) :=
  memWrite_of_admitted (by decide) v s

/-- The host's turn changes the error record only by a write of CMD, or by ERRCLR (R80, R89). -/
theorem HostEffect.errors {s t : State} (h : HostEffect s t) :
    (t.err = s.err ∧ t.merr = s.merr ∧ t.errcmd = s.errcmd) ∨
      ∃ v : Word, s.host.script[s.host.pos]? = some (.memWrite 0x08 4 v) ∨
        (v.getLsbD 31 = true ∧ s.host.script[s.host.pos]? = some (.memWrite 0x04 4 v)) := by
  cases h with
  | quiet | draws | writesDataLo | writesDataHi => exact .inl ⟨rfl, rfl, rfl⟩
  | issues a v hst => exact .inr ⟨v, .inl hst⟩
  | writesStatus a v hst =>
    obtain ⟨hv, -⟩ | ⟨-, hw⟩ := writeStatus_cases v s
    · exact .inr ⟨v, .inr ⟨hv, hst⟩⟩
    · rw [hw]; exact .inl ⟨rfl, rfl, rfl⟩

/-- What a block keeps while its command waits: BUSY, PEND, the packer, the results and NLE. The host's accesses may
change DATA and the error record (R22, R54, R56, R85). -/
def Waits (s t : State) : Prop :=
  t = { s with dataLo := t.dataLo, dataHi := t.dataHi, err := t.err, merr := t.merr, errcmd := t.errcmd,
               host := t.host, sched := t.sched, readDraws := t.readDraws }

theorem Waits.kept {s t : State} (h : Waits s t) :
    t.busy = s.busy ∧ t.pend = s.pend ∧ SamePacker s t ∧ t.crc = s.crc ∧ t.resLo = s.resLo ∧ t.resHi = s.resHi ∧
      t.arr = s.arr := by
  rw [h]
  exact ⟨rfl, rfl, ⟨rfl, rfl, rfl, rfl⟩, rfl, rfl, rfl, rfl⟩

theorem Waits.trans {s t u : State} (hst : Waits s t) (htu : Waits t u) : Waits s u := by
  unfold Waits at hst htu ⊢
  rw [htu, hst]

theorem waits_takeTurn (s : State) : Waits s (takeTurn s) := by
  obtain ⟨d, h⟩ := takeTurn_eq s
  rw [h]
  rfl

/-- While BUSY = 1 every CMD write is an OVERRUN, so the host's turn lets the pending command wait (R54, R85). -/
theorem HostEffect.waits {s t : State} (h : HostEffect s t) (hb : s.busy = true) : Waits s t := by
  cases h with
  | quiet | draws | writesDataLo | writesDataHi => rfl
  | issues a v =>
    obtain ⟨code, -, -, hi⟩ | ⟨hidle, -⟩ := issue_rejects_or_accepts v s
    · obtain ⟨e, m, k, hr⟩ := raiseError_eq code v s
      rw [hi, hr]; rfl
    · simp [hb] at hidle
  | writesStatus a v => obtain ⟨-, hw⟩ | ⟨-, hw⟩ := writeStatus_cases v s <;> rw [hw] <;> rfl

/-- One host turn of a well-formed script while a command is pending (R54). -/
theorem step_hostTurn_of_busy {s : State} {rest : List Turn} (hb : s.busy = true)
    (hok : scriptOk s.host.script = true) (hturns : s.sched.turns = .host :: rest) :
    ∃ t, step s = .next t ∧ Waits s t ∧ t.host.script = s.host.script ∧ t.sched.turns = rest := by
  obtain ⟨t, ht, hscript⟩ := hostStep_progress (s := takeTurn s) (by rwa [takeTurn_host])
  have heff := hostStep_effect ht
  refine ⟨t, (step_of_host (nextTurn_of_cons hturns)).trans ht,
    (waits_takeTurn s).trans (heff.waits (by rwa [takeTurn_busy])), by rw [hscript, takeTurn_host], ?_⟩
  rw [heff.frame, takeTurn_of_cons hturns]

/-- Any number of host turns of a well-formed script, by induction on the number (R54). -/
theorem runSteps_hostTurns_of_busy (k : Nat) {s : State} {rest : List Turn} (hb : s.busy = true)
    (hok : scriptOk s.host.script = true) (hturns : s.sched.turns = List.replicate k .host ++ rest) :
    ∃ t, runSteps k s = .next t ∧ Waits s t ∧ t.sched.turns = rest := by
  induction k generalizing s with
  | zero => exact ⟨s, rfl, rfl, hturns⟩
  | succ k ih =>
    obtain ⟨u, hstep, hwaits, hscript, hu⟩ := step_hostTurn_of_busy hb hok hturns
    have hub : u.busy = true := by rw [hwaits]; exact hb
    obtain ⟨t, hrun, hwaits', ht⟩ := ih hub (by rwa [hscript]) hu
    exact ⟨t, by rw [runSteps, hstep]; exact hrun, hwaits.trans hwaits', ht⟩

end Sys2Proof.Machine
end

section
/-! PROOFS. The statements of 40_command_issue.md. -/

namespace Sys2Proof.Machine

/-- Settles O7: issue accepts exactly what passes R52's checks, and anything else is one `raiseError`. -/
theorem issueAcceptsExactlyTheCheckedCommands : Obligations.IssueAcceptsExactlyTheCheckedCommands := by
  unfold Obligations.IssueAcceptsExactlyTheCheckedCommands
  intro c s
  simp only [← readsPacker_iff_mem, ← needsFourBytes_iff_mem]
  constructor
  · rintro ⟨hb, i, hd, hv, hw⟩
    exact issue_of_checked hb hd hv hw
  · intro hnot
    obtain ⟨code, hne, -, h⟩ | ⟨hb, -, hchecked⟩ := issue_rejects_or_accepts c s
    · rw [h]
      obtain ⟨herr, hr⟩ | ⟨herr, hr⟩ := raiseError_cases code c s
      · rw [hr]
        exact ⟨rfl, (if_pos herr).symm, hne⟩
      · rw [hr]
        exact ⟨rfl, (if_neg herr).symm, herr⟩
    · exact absurd ⟨hb, hchecked⟩ hnot

/-- Settles O13: a host turn changes the record only by a CMD write or ERRCLR, and a completion leaves it. -/
theorem onlyIssueErrClrAndResetTouchTheErrorRecord : Obligations.OnlyIssueErrClrAndResetTouchTheErrorRecord := by
  unfold Obligations.OnlyIssueErrClrAndResetTouchTheErrorRecord
  intro s t h
  obtain ⟨hturn, hhost⟩ | ⟨-, hengine⟩ | ⟨hturn, -⟩ := step_cases h
  · have herrors := (hostStep_effect hhost).errors
    simp only [takeTurn_err, takeTurn_merr, takeTurn_errcmd, takeTurn_host] at herrors
    exact herrors.imp_right fun hst => .inr ⟨hturn, hst⟩
  · left
    obtain ⟨-, rfl⟩ | ⟨-, _, _, -, -, hexec⟩ := engineTurn_cases hengine
    · simp
    · rw [exec_frame hexec]
      simp
  · exact .inr (.inl hturn)

/-- Settles O19: a busy read assigns `readValue` of its own draw, and `regAt_off` names the register at each offset. -/
theorem busyReadsAreFreeDraws : Obligations.BusyReadsAreFreeDraws := by
  unfold Obligations.BusyReadsAreFreeDraws
  intro s off x hb h0 h7C hmod
  have hadm : admitted off 4 = true := (admitted_iff off 4).2 ⟨rfl, h0, h7C, hmod⟩
  refine ⟨_, memRead_of_busy hb hadm x, ?_⟩
  simp only [assign_vars, varValue_setVar]
  have hshown : ∀ r : Reg, hiddenWhileBusy r = false → r ≠ .status → regAt off = r →
      readValue (regAt off) (nextDraw s) s = trueValue r s :=
    fun r hr hstatus hreg => by rw [hreg, readValue_of_shown hr hstatus]
  have hreg : ∀ r : Reg, off = (r.off : Int) → regAt off = r := fun r hoff => by rw [hoff, (regAt_off r).2]
  refine ⟨?hidden, ?status, fun h => hshown .id rfl (by decide) (hreg .id h),
    fun h => hshown .cmd rfl (by decide) (hreg .cmd h), fun h => hshown .errcmd rfl (by decide) (hreg .errcmd h),
    fun h => hshown .dataLo rfl (by decide) (hreg .dataLo h),
    fun h => hshown .dataHi rfl (by decide) (hreg .dataHi h),
    fun h => hshown .reserved rfl (by decide) (regAt_of_reserved h)⟩
  case hidden =>
    intro hlo hhi
    exact readValue_of_hidden hb ((hiddenWhileBusy_regAt hadm).2 ⟨hlo, hhi⟩) _
  case status =>
    intro hoff b hb32
    rw [hreg .status hoff, readValue_status_of_busy hb]
    exact statusWith_drawn_getLsbD s _ hb32

/-- Settles O35: the completion's frame gives the registers of the other groups, `exec_writes_own_group` the results. -/
theorem completionLeavesTheOtherRegisters : Obligations.CompletionLeavesTheOtherRegisters := by
  unfold Obligations.CompletionLeavesTheOtherRegisters
  intro i s t h
  obtain ⟨hpacker, hcrc, hres, harr⟩ := exec_writes_own_group h
  have hsame : (∀ w, i ≠ .pack w) → SamePacker s t := fun hne => hpacker.resolve_right fun ⟨w, hw⟩ => hne w hw
  refine ⟨?others, ?arr, ?res, ?crc, hsame, fun b hb h0 hshown => ?status, ?idle⟩
  case others =>
    intro r hr
    rw [exec_frame h]
    fin_cases hr <;> rfl
  case arr =>
    intro hi k
    simp only [trueValue, harr.resolve_right hi]
  case res => exact hres.resolve_right
  case crc =>
    intro hseed hbyte hpack
    have hsameCrc : t.crc = s.crc := by simpa [hseed, hbyte, hpack] using hcrc
    simp only [trueValue, hsameCrc]
  case status => exact exec_statusWord_getLsbD h hb h0 (hshown.imp_left hsame)
  case idle =>
    rw [exec_frame h]
    exact ⟨rfl, rfl, rfl, rfl, rfl⟩

/-- Settles O40: the invariant gives the engine a well-formed command to complete, or an idle block to pass. -/
theorem engineTurnAlwaysCompletes : Obligations.EngineTurnAlwaysCompletes := by
  unfold Obligations.EngineTurnAlwaysCompletes
  intro s h hturn
  obtain ⟨t, ht, hb, hp⟩ := engineStep_progress h.takeTurn
  exact ⟨t, (step_of_engine hturn).trans ht, hb, hp, h.takeTurn.engineStep ht⟩

/-- Settles O43: the command waits through every host turn, and then the engine runs it. -/
theorem pendingCommandSurvivesAnyNumberOfHostTurns : Obligations.PendingCommandSurvivesAnyNumberOfHostTurns := by
  unfold Obligations.PendingCommandSurvivesAnyNumberOfHostTurns
  intro k s p i rest hb hp hd hok hturns
  obtain ⟨t, hrun, hwaits, ht⟩ := runSteps_hostTurns_of_busy k hb hok hturns
  obtain ⟨hbusy, hpend, hpacker, hcrc, hlo, hhi, harr⟩ := hwaits.kept
  have htb : t.busy = true := hbusy.trans hb
  have htp : t.pend = some p := hpend.trans hp
  exact ⟨t, hrun, htb, htp, hpacker, hcrc, hlo, hhi, harr, step_of_pending (nextTurn_of_cons ht) htb htp hd⟩

/-- Settles O44: PACK's completion takes the snapshot of its issue, a write of DATA leaves PEND, and `exec_setData`. -/
theorem packUsesTheDataOfIssue : Obligations.PackUsesTheDataOfIssue := by
  unfold Obligations.PackUsesTheDataOfIssue
  refine ⟨fun s w lo hi h1 h8 hb => ?pack, fun s lo v hb => ?write, fun i s t lo hi => exec_setData lo hi⟩
  case pack =>
    have hw : sizeOk w = true := (sizeOk_iff w).2 ⟨h1, h8⟩
    have hissue : issue (encode (.pack w)) s = s.accept (encode (.pack w)) :=
      issue_of_checked hb (decode_encode hw) (by rintro ⟨⟩) (by rintro ⟨⟩)
    rw [hissue, exec_pack _ hw]
    exact ⟨_, complete_of_pend rfl _, ⟨hw, rfl, rfl, rfl⟩, rfl, rfl⟩
  case write =>
    exact ⟨_, memWrite_dataLo v s, rfl, rfl, hb, _, memWrite_dataHi lo s, rfl, rfl, hb⟩

/-- Settles O22: `step_of_pending`. -/
theorem stepRunsThePendingCommand : Obligations.StepRunsThePendingCommand := by
  unfold Obligations.StepRunsThePendingCommand
  exact fun s c d i hturn hb hp hd => step_of_pending hturn hb hp hd

/-- Settles O26: NOP's completion performs nothing. -/
theorem nopOnlyCompletes : Obligations.NopOnlyCompletes := by
  unfold Obligations.NopOnlyCompletes
  rintro s d ⟨-, c, hp, -⟩
  rw [exec_nop, complete_of_pend hp]
  rfl

end Sys2Proof.Machine
end

section
/-! SUPPORT. Element k of an ordered byte array (00_scope.md R11, 41_packer.md R62, R63), and the number and the
concatenation that a list of bytes read least significant first stands for. -/

namespace Sys2Proof.Machine

/-- Element k of the reversed array is element n-1-k (R11). -/
theorem rev_getD (a : List Byte) (k : Nat) :
    (rev a).getD k 0#8 = if k < a.length then a.getD (a.length - 1 - k) 0#8 else 0#8 := by
  split
  · rw [rev, List.getD_reverse k ‹_›]
  · exact List.getD_eq_default _ _ (by simpa using Nat.le_of_not_lt ‹_›)

/-- Byte k of the w least significant bytes. -/
theorem bytesLsbFirst_getD (v : Dword) (w k : Nat) :
    (bytesLsbFirst v w).getD k 0#8 = if k < w then byteOf v k else 0#8 := by
  split
  · simp [bytesLsbFirst, ‹k < w›]
  · exact List.getD_eq_default _ _ (by simpa using Nat.le_of_not_lt ‹_›)

/-- Element k of an array put in little-endian order (R63). -/
theorem littleEndian_getD (le : Bool) (a : List Byte) (k : Nat) :
    (littleEndian le a).getD k 0#8 =
      if k < a.length then a.getD (if le = true then k else a.length - 1 - k) 0#8 else 0#8 := by
  cases le with
  | false => exact rev_getD a k
  | true =>
    split
    · rfl
    · exact List.getD_eq_default _ _ (Nat.le_of_not_lt ‹_›)

/-- The big-endian array in one native order is the little-endian array in the other (R62, R63). -/
theorem bigEndian_eq_littleEndian_not (le : Bool) (a : List Byte) : bigEndian le a = littleEndian (!le) a := by
  cases le <;> rfl

/-- Reading in native order is summing the little-endian array (R11, R63). -/
theorem fromNat_eq_sumLsbFirst (le : Bool) (a : List Byte) : fromNat le a = sumLsbFirst (littleEndian le a) := by
  cases le <;> rfl

/-- The little-endian array read in native order: the same number in either order (R66). -/
theorem fromNat_littleEndian (le : Bool) (a : List Byte) : fromNat le (littleEndian le a) = sumLsbFirst a := by
  cases le with
  | false => exact congrArg sumLsbFirst (rev_rev a)
  | true => rfl

/-- The big-endian array read in native order: the same number in either order (R65). -/
theorem fromNat_bigEndian (le : Bool) (a : List Byte) : fromNat le (bigEndian le a) = sumLsbFirst (rev a) := by
  cases le <;> rfl

@[simp] theorem littleEndian_length (le : Bool) (a : List Byte) : (littleEndian le a).length = a.length := by
  cases le <;> simp [littleEndian]

/-- R11's sum, byte k times 2^(8k). -/
theorem sumLsbFirst_eq_sum (a : List Byte) :
    sumLsbFirst a = ∑ k ∈ Finset.range a.length, (a.getD k 0#8).toNat * 2 ^ (8 * k) := by
  induction a with
  | nil => rfl
  | cons b a ih =>
    have hweight (n k : Nat) : n * 2 ^ (8 * (k + 1)) = 256 * (n * 2 ^ (8 * k)) := by ring
    simp only [sumLsbFirst, ih, List.length_cons, Finset.sum_range_succ', List.getD_cons_succ, List.getD_cons_zero,
      hweight, ← Finset.mul_sum]
    simp [Nat.add_comm]

/-- n bytes stand for a number below 2^(8n). -/
theorem sumLsbFirst_lt (a : List Byte) : sumLsbFirst a < 2 ^ (8 * a.length) := by
  induction a with
  | nil => exact Nat.one_pos
  | cons b a ih =>
    have hpow : 2 ^ (8 * (a.length + 1)) = 256 * 2 ^ (8 * a.length) := by ring
    have hb := b.isLt
    simp only [sumLsbFirst, List.length_cons, hpow]
    omega

/-- A byte put below a bit vector. -/
theorem toNat_append_byte {n : Nat} (x : BitVec n) (b : Byte) : (x ++ b).toNat = b.toNat + 256 * x.toNat := by
  rw [BitVec.toNat_append, ← Nat.shiftLeft_add_eq_or_of_lt b.isLt, Nat.shiftLeft_eq]
  omega

/-- Four bytes read least significant first are their concatenation, the last one on top. -/
theorem ofNat_sumLsbFirst_four (b0 b1 b2 b3 : Byte) :
    BitVec.ofNat 32 (sumLsbFirst [b0, b1, b2, b3]) = b3 ++ b2 ++ b1 ++ b0 := by
  apply BitVec.eq_of_toNat_eq
  have hlt : sumLsbFirst [b0, b1, b2, b3] < 2 ^ 32 := sumLsbFirst_lt _
  rw [BitVec.toNat_ofNat, Nat.mod_eq_of_lt hlt]
  simp [sumLsbFirst, toNat_append_byte]

/-- Element k of the value's bytes, most significant first (R62's closed form). -/
theorem valueBytes_getD (v : Dword) (w k : Nat) :
    (valueBytes v w).getD k 0#8 = if k < w then byteOf v (w - 1 - k) else 0#8 := by
  rw [valueBytes, rev_getD, bytesLsbFirst_length]
  by_cases hk : k < w
  · rw [if_pos hk, if_pos hk, bytesLsbFirst_getD, if_pos (by omega)]
  · rw [if_neg hk, if_neg hk]

/-- A 64-bit value is its two halves (R23). -/
theorem highHalf_append_lowHalf (v : Dword) : highHalf v ++ lowHalf v = v := by
  apply BitVec.eq_of_toNat_eq
  have hv := v.isLt
  rw [BitVec.toNat_append, ← Nat.shiftLeft_add_eq_or_of_lt (lowHalf v).isLt, Nat.shiftLeft_eq]
  simp only [highHalf, lowHalf, BitVec.extractLsb'_toNat, Nat.shiftRight_eq_div_pow]
  omega

/-- RES holds a zero extended number below 2^64 whole (R67). -/
theorem toNat_halves_zext64 {n : Nat} (h : n < 2 ^ 64) :
    (highHalf (zext64 n) ++ lowHalf (zext64 n) : Dword).toNat = n := by
  rw [highHalf_append_lowHalf, zext64, BitVec.toNat_ofNat, Nat.mod_eq_of_lt h]

/-- Bit j of a word with the bytes swapped: the same bit of the byte at the other end (R11). -/
theorem bswap32_getLsbD (x : Word) {j : Nat} (hj : j < 32) :
    (bswap32 x).getLsbD j = x.getLsbD (24 - 8 * (j / 8) + j % 8) := by
  simp only [bswap32, BitVec.getLsbD_append, BitVec.getLsbD_extractLsb']
  split_ifs <;> (rw [decide_eq_true (by omega), Bool.true_and]; congr 1; omega)

/-- Swapping the bytes twice gives the word back (R68 item 4). -/
theorem bswap32_bswap32 (x : Word) : bswap32 (bswap32 x) = x := by
  apply BitVec.eq_of_getLsbD_eq
  intro j hj
  rw [bswap32_getLsbD _ hj, bswap32_getLsbD _ (by omega)]
  congr 1
  omega

/-- A byte of the low half is that byte of the value. -/
theorem extractLsb'_lowHalf (v : Dword) (i : Nat) (h : i < 4) : (lowHalf v).extractLsb' (8 * i) 8 = byteOf v i := by
  apply BitVec.eq_of_getLsbD_eq
  intro j hj
  have hlow : 8 * i + j < 32 := by omega
  simp [lowHalf, byteOf, hj, hlow]

/-- The four low bytes of v read least significant first are its low half (R64's closed form). -/
theorem ofNat_sumLsbFirst_bytesLsbFirst_four (v : Dword) :
    BitVec.ofNat 32 (sumLsbFirst (bytesLsbFirst v 4)) = lowHalf v := by
  apply BitVec.eq_of_toNat_eq
  rw [sumLsbFirst_bytesLsbFirst, BitVec.toNat_ofNat, lowHalf, BitVec.extractLsb'_toNat]
  simp

/-- Read the other way they are its low half with the bytes swapped (R65, R66's closed forms). -/
theorem ofNat_sumLsbFirst_rev_bytesLsbFirst_four (v : Dword) :
    BitVec.ofNat 32 (sumLsbFirst (rev (bytesLsbFirst v 4))) = bswap32 (lowHalf v) := by
  have hbytes : rev (bytesLsbFirst v 4) = [byteOf v 3, byteOf v 2, byteOf v 1, byteOf v 0] := rfl
  rw [hbytes, ofNat_sumLsbFirst_four, ← extractLsb'_lowHalf v 0 (by decide), ← extractLsb'_lowHalf v 1 (by decide),
    ← extractLsb'_lowHalf v 2 (by decide), ← extractLsb'_lowHalf v 3 (by decide)]
  rfl

end Sys2Proof.Machine
end

section
/-! SUPPORT. The packer's raw bytes (10_state.md R20) and its completions (41_packer.md R60 to R67). -/

namespace Sys2Proof.Machine

/-- The packed size is 1 to 8 (R9). -/
theorem packedSize_le (s : State) : s.packedSize ≤ 8 := s.wm1.isLt

@[simp] theorem rawBytes_packedSize_length (s : State) : (s.rawBytes s.packedSize).length = s.packedSize := by
  simp [State.rawBytes, packedSize_le]

/-- Element k of the raw bytes is RAW[k] below the packed size. -/
theorem rawBytes_getD (s : State) {n k : Nat} (h : k < n) : (s.rawBytes n).getD k 0#8 = s.raw.toList.getD k 0#8 := by
  rw [State.rawBytes, List.getD_eq_getElem?_getD, List.getElem?_take_of_lt h, List.getD_eq_getElem?_getD]

/-- Element k of the raw bytes put in little-endian order (R63). -/
theorem littleEndian_rawBytes_getD (le : Bool) (s : State) (k : Nat) :
    (littleEndian le (s.rawBytes s.packedSize)).getD k 0#8 =
      if k < s.wm1.toNat + 1 then s.raw.toList.getD (if le = true then k else s.wm1.toNat - k) 0#8 else 0#8 := by
  have hsize : s.packedSize = s.wm1.toNat + 1 := rfl
  rw [littleEndian_getD, rawBytes_packedSize_length, hsize]
  split
  · rw [rawBytes_getD s (by split <;> omega), Nat.add_sub_cancel]
  · rfl

/-- The raw bytes read in native order fit 64 bits (R67). -/
theorem fromNat_rawBytes_lt (s : State) : fromNat s.nle (s.rawBytes s.packedSize) < 2 ^ 64 := by
  have hsize := packedSize_le s
  rw [fromNat_eq_sumLsbFirst]
  calc sumLsbFirst (littleEndian s.nle (s.rawBytes s.packedSize))
      < 2 ^ (8 * (littleEndian s.nle (s.rawBytes s.packedSize)).length) := sumLsbFirst_lt _
    _ = 2 ^ (8 * s.packedSize) := by rw [littleEndian_length, rawBytes_packedSize_length]
    _ ≤ 2 ^ 64 := Nat.pow_le_pow_right (by decide) (by omega)

/-- A command that is pending completes with the DATA snapshot of PEND (R53). -/
theorem complete_of_pends {s : State} {i : Instr} {d : Dword} (h : Pends s i d) (f : Dword → State → State) :
    complete f s = .next (f d s).retire := by
  obtain ⟨-, c, hp, -⟩ := h
  exact complete_of_pend hp f

/-- UNPACK leaves in RES the number its raw bytes are in native order (R67). -/
theorem exec_unpack_of_pends {s : State} {d : Dword} (h : Pends s .unpack d) :
    ∃ lo hi : Word, exec .unpack s = .next (s.setRes lo hi).retire ∧
      (hi ++ lo : Dword).toNat = fromNat s.nle (s.rawBytes s.packedSize) :=
  ⟨_, _, by rw [exec_unpack, complete_of_pends h], toNat_halves_zext64 (fromNat_rawBytes_lt s)⟩

/-- After PACK w of d the packer holds d in w bytes (R60). -/
theorem holds_of_exec_pack {s t : State} {w : Nat} {d : Dword} (hp : Pends s (.pack w) d)
    (h : exec (.pack w) s = .next t) : Holds t d w := by
  have hw : sizeOk w = true := wf_of_exec h
  rw [exec_pack s hw, complete_of_pends hp] at h
  cases h
  exact ⟨hw, rfl, rfl, rfl⟩

/-- What a packer holds depends on the packer alone (R20). -/
theorem Holds.of_samePacker {s t : State} {v : Dword} {w : Nat} (h : Holds s v w) (hst : SamePacker s t) :
    Holds t v w := by
  obtain ⟨hw, hvalid, hwm1, hraw⟩ := h
  obtain ⟨traw, tvalid, twm1, tnle⟩ := hst
  exact ⟨hw, tvalid.trans hvalid, twm1.trans hwm1, by rw [traw, tnle, hraw]⟩

end Sys2Proof.Machine
end

section
/-! PROOFS. The statements of 41_packer.md. -/

namespace Sys2Proof.Machine

/-- Settles O27: lane k of the filled lanes is element k of the native-order bytes. -/
theorem packCapturesTheSnapshot : Obligations.PackCapturesTheSnapshot := by
  unfold Obligations.PackCapturesTheSnapshot
  intro s w d h1 h8 hp
  refine ⟨Lanes.fill (natBytes s.nle d w), ?next, fun k => ?lane⟩
  case next => rw [exec_pack s ((sizeOk_iff w).2 ⟨h1, h8⟩), complete_of_pends hp]; rfl
  case lane =>
    have horder : natBytes s.nle d w = littleEndian s.nle (bytesLsbFirst d w) := rfl
    rw [get_fill, horder, littleEndian_getD, bytesLsbFirst_length]
    by_cases hk : k.val < w
    · rw [if_pos hk, if_pos hk, bytesLsbFirst_getD, if_pos (by split <;> omega)]
      exact apply_ite (byteOf d) _ _ _
    · rw [if_neg hk, if_neg hk]

/-- Settles O28: the big-endian array is the little-endian one of the other native order. -/
theorem getBeWritesTheBigEndianArray : Obligations.GetBeWritesTheBigEndianArray := by
  unfold Obligations.GetBeWritesTheBigEndianArray
  intro s d hp
  refine ⟨Lanes.fill (bigEndian s.nle (s.rawBytes s.packedSize)), ?next, fun k => ?lane⟩
  case next => rw [exec_getbe, complete_of_pends hp]; rfl
  case lane =>
    rw [get_fill, bigEndian_eq_littleEndian_not, littleEndian_rawBytes_getD]
    cases s.nle <;> rfl

/-- Settles O29: lane k of the filled lanes is element k of the array. -/
theorem getLeWritesTheLittleEndianArray : Obligations.GetLeWritesTheLittleEndianArray := by
  unfold Obligations.GetLeWritesTheLittleEndianArray
  intro s d hp
  refine ⟨Lanes.fill (littleEndian s.nle (s.rawBytes s.packedSize)), ?next, fun k => ?lane⟩
  case next => rw [exec_getle, complete_of_pends hp]; rfl
  case lane => rw [get_fill, littleEndian_rawBytes_getD]

/-- Settles O30: four bytes summed are their concatenation, in the order they are read in. -/
theorem getU32ReadsTheRawBytes : Obligations.GetU32ReadsTheRawBytes := by
  unfold Obligations.GetU32ReadsTheRawBytes
  intro s d hp
  have hword : BitVec.ofNat 32 (fromNat s.nle (s.rawBytes 4)) =
      if s.nle = true then s.raw.b3 ++ s.raw.b2 ++ s.raw.b1 ++ s.raw.b0
      else s.raw.b0 ++ s.raw.b1 ++ s.raw.b2 ++ s.raw.b3 := by
    cases s.nle with
    | false => exact ofNat_sumLsbFirst_four s.raw.b3 s.raw.b2 s.raw.b1 s.raw.b0
    | true => exact ofNat_sumLsbFirst_four s.raw.b0 s.raw.b1 s.raw.b2 s.raw.b3
  rw [exec_getu32, complete_of_pends hp, ← hword]
  rfl

/-- Settles O31: an array read in the native order it was laid out in is the same number in either order. -/
theorem getU32BeAndLeReadTheArrays : Obligations.GetU32BeAndLeReadTheArrays := by
  unfold Obligations.GetU32BeAndLeReadTheArrays
  refine fun s d => ⟨fun hp => ?be, fun hp => ?le⟩
  case be =>
    rw [exec_getu32be, complete_of_pends hp, fromNat_bigEndian,
      ← ofNat_sumLsbFirst_four s.raw.b3 s.raw.b2 s.raw.b1 s.raw.b0]
    rfl
  case le =>
    rw [exec_getu32le, complete_of_pends hp, fromNat_littleEndian,
      ← ofNat_sumLsbFirst_four s.raw.b0 s.raw.b1 s.raw.b2 s.raw.b3]
    rfl

/-- Settles O32: the number of the raw bytes is R11's sum over the little-endian array. -/
theorem unpackReturnsTheNativeInteger : Obligations.UnpackReturnsTheNativeInteger := by
  unfold Obligations.UnpackReturnsTheNativeInteger
  intro s d hp
  obtain ⟨lo, hi, hexec, hres⟩ := exec_unpack_of_pends hp
  refine ⟨lo, hi, hexec, ?_⟩
  rw [hres, fromNat_eq_sumLsbFirst, sumLsbFirst_eq_sum, littleEndian_length,
    rawBytes_packedSize_length]
  refine Finset.sum_congr rfl fun k hk => ?_
  rw [littleEndian_rawBytes_getD, if_pos (Finset.mem_range.1 hk)]

/-- Settles O45: the later state's packer holds d, whose native-order bytes read back as d modulo 2^(8w). -/
theorem unpackOfPackIsTheValue : Obligations.UnpackOfPackIsTheValue := by
  unfold Obligations.UnpackOfPackIsTheValue
  intro s t u w d e _ _ hpack hexec hsame hunpack
  have hu : Holds u d w := (holds_of_exec_pack hpack hexec).of_samePacker hsame
  obtain ⟨lo, hi, hx, hres⟩ := exec_unpack_of_pends hunpack
  refine ⟨_, hx, ?_⟩
  calc (hi ++ lo : Dword).toNat
      = fromNat u.nle (u.rawBytes u.packedSize) := hres
    _ = d.toNat % 2 ^ (8 * w) := by
      rw [packedSize_of_holds hu, rawBytes_of_holds hu, fromNat_natBytes, sumLsbFirst_bytesLsbFirst]

/-- Settles O46: either array of native-order bytes is the value's bytes in a fixed order. -/
theorem byteArraysDoNotDependOnNativeOrder : Obligations.ByteArraysDoNotDependOnNativeOrder := by
  unfold Obligations.ByteArraysDoNotDependOnNativeOrder
  refine fun s v d w hv => ⟨fun hp => ?be, fun hp => ?le⟩
  case be =>
    refine ⟨_, by rw [exec_getbe, complete_of_pends hp], fun k => ?_⟩
    rw [retire_arr, setArr_arr, get_fill, packedSize_of_holds hv, rawBytes_of_holds hv, bigEndian_natBytes,
      valueBytes_getD]
  case le =>
    refine ⟨_, by rw [exec_getle, complete_of_pends hp], fun k => ?_⟩
    rw [retire_arr, setArr_arr, get_fill, packedSize_of_holds hv, rawBytes_of_holds hv, littleEndian_natBytes,
      bytesLsbFirst_getD]

/-- Settles O47: four bytes of v read least significant first are V, and the other way bswap32(V). -/
theorem wordAccessorsOfAFourByteValue : Obligations.WordAccessorsOfAFourByteValue := by
  unfold Obligations.WordAccessorsOfAFourByteValue
  intro s v d hv V
  have hbytes := rawBytes_of_holds hv
  refine ⟨fun hp => ?native, fun hp => ?be, fun hp => ?le, bswap32_bswap32 V⟩
  case native =>
    refine ⟨_, by rw [exec_getu32, complete_of_pends hp], ?_, rfl⟩
    rw [retire_resLo, setRes_resLo, hbytes, fromNat_natBytes]
    exact ofNat_sumLsbFirst_bytesLsbFirst_four v
  case be =>
    refine ⟨_, by rw [exec_getu32be, complete_of_pends hp], rfl, ?_⟩
    rw [retire_resLo, setRes_resLo, hbytes, fromNat_bigEndian]
    cases s.nle with
    | false => exact (congrArg _ (congrArg _ (rev_rev _))).trans (ofNat_sumLsbFirst_bytesLsbFirst_four v)
    | true => exact ofNat_sumLsbFirst_rev_bytesLsbFirst_four v
  case le =>
    refine ⟨_, by rw [exec_getu32le, complete_of_pends hp], rfl, ?_⟩
    rw [retire_resLo, setRes_resLo, hbytes, fromNat_littleEndian]
    cases s.nle with
    | false => exact ofNat_sumLsbFirst_rev_bytesLsbFirst_four v
    | true => exact ofNat_sumLsbFirst_bytesLsbFirst_four v

end Sys2Proof.Machine
end

section
/-! SUPPORT. The CRC over GF(2) (42_crc.md R70 to R72, R79): the shift register is linear, loses nothing, and divides by
x^8 + x^5 + x^4 + 1. -/

namespace Sys2Proof.Machine

/-- Adding a term under the sum of two conditions is adding it under each: twice is not at all. -/
theorem ite_xor_ite {n : Nat} (a b : Bool) (p : BitVec n) :
    (if (a ^^ b) = true then p else 0#n) = (if a = true then p else 0#n) ^^^ (if b = true then p else 0#n) := by
  cases a <;> cases b <;> simp

/-- One shift is linear: so is the left shift, and so is the test of bit 7 (R79). -/
theorem crcShift_xor (x y : Byte) : crcShift (x ^^^ y) = crcShift x ^^^ crcShift y := by
  rw [crcShift_eq, crcShift_eq, crcShift_eq, BitVec.shiftLeft_xor_distrib, BitVec.msb_xor, ite_xor_ite]
  ac_rfl

theorem crcShifts_xor (n : Nat) (x y : Byte) : crcShifts n (x ^^^ y) = crcShifts n x ^^^ crcShifts n y := by
  induction n generalizing x y with
  | zero => rfl
  | succ n ih => rw [crcShifts, crcShift_xor, ih]; rfl

/-- A step is linear in the seed and the data byte together (R79). -/
theorem crcStep_xor (c c' b b' : Byte) : crcStep (c ^^^ c') (b ^^^ b') = crcStep c b ^^^ crcStep c' b' := by
  have hpair : (c ^^^ c') ^^^ (b ^^^ b') = (c ^^^ b) ^^^ (c' ^^^ b') := by ac_rfl
  rw [crcStep, hpair, crcShifts_xor]; rfl

/-- The CRC from a sum of seeds is the sum of the two CRCs, the data taken with one of the seeds (R79 item 3). -/
theorem crcSeq_xor_seed (s t : Byte) (d : List Byte) :
    crcSeq (s ^^^ t) d = crcSeq s (List.replicate d.length 0#8) ^^^ crcSeq t d := by
  induction d generalizing s t with
  | nil => rfl
  | cons b d ih =>
    have hstep : crcStep (s ^^^ t) b = crcStep s 0#8 ^^^ crcStep t b := by
      rw [← crcStep_xor, BitVec.zero_xor]
    rw [crcSeq_cons, hstep, ih, List.length_cons, List.replicate_succ, crcSeq_cons, crcSeq_cons]

/-- A byte meeting an equal register leaves nothing (R79 item 4). -/
@[simp] theorem crcStep_self (c : Byte) : crcStep c c = 0#8 := by
  rw [crcStep, BitVec.xor_self]; rfl

/-- Only 0 shifts to 0: the polynomial is odd, so a bit that leaves the register comes back as bit 0 (R70). -/
theorem crcShift_eq_zero : ∀ x : Byte, crcShift x = 0#8 → x = 0#8 := by
  decide +kernel

theorem crcShift_injective : Function.Injective crcShift := by
  intro x y h
  have hzero : crcShift (x ^^^ y) = 0#8 := by rw [crcShift_xor, h, BitVec.xor_self]
  exact BitVec.xor_eq_zero_iff.1 (crcShift_eq_zero _ hzero)

theorem crcShifts_injective (n : Nat) : Function.Injective (crcShifts n) := by
  induction n with
  | zero => exact Function.injective_id
  | succ n ih => exact ih.comp crcShift_injective

/-- R70's test of bit 7, with the polynomial's value. -/
theorem crcShift_eq_ite (x : Byte) :
    crcShift x = if x.getLsbD 7 = true then (x <<< 1) ^^^ 0x31#8 else x <<< 1 := by
  have hmsb : x.msb = x.getLsbD 7 := BitVec.msb_eq_getLsbD_last x
  rw [crcShift_eq, hmsb]
  split
  · rfl
  · exact BitVec.xor_zero

/-- A term added under a condition, written as one sum. -/
theorem ite_xor_self {n : Nat} (b : Bool) (acc p : BitVec n) :
    (if b = true then acc ^^^ p else acc) = acc ^^^ (if b = true then p else 0#n) := by
  cases b <;> simp

/-- The product over GF(2) is linear in its first factor: each term is. -/
theorem gf2Mul_xor (q q' : Byte) (p : BitVec 16) : gf2Mul (q ^^^ q') p = gf2Mul q p ^^^ gf2Mul q' p := by
  refine List.foldl_hom₂ (List.range 8) (· ^^^ ·) _ _ _ 0#16 0#16 fun a b i => ?_
  rw [ite_xor_self, ite_xor_self, ite_xor_self, BitVec.getLsbD_xor, ite_xor_ite]
  ac_rfl

theorem gf2Mul_zero (p : BitVec 16) : gf2Mul 0#8 p = 0#16 := rfl

/-- The product with x^n shifts by n. -/
theorem gf2Mul_twoPow : ∀ n : Fin 8, gf2Mul (1#8 <<< n.val) 0x131#16 = 0x131#16 <<< n.val := by
  decide

/-- A multiple of the polynomial below x^8 is 0: the polynomial has degree 8. -/
theorem gf2Mul_eq_zero_of_lt : ∀ q : Byte, (gf2Mul q 0x131#16).toNat < 2 ^ 8 → gf2Mul q 0x131#16 = 0#16 := by
  decide +kernel

/-- One shift is one step of the long division: multiply by x, and take away the polynomial when the degree is 8. -/
theorem crcShift_divides : ∀ x : Byte,
    x.setWidth 16 <<< 1 = (if x.msb = true then 0x131#16 else 0#16) ^^^ (crcShift x).setWidth 16 := by
  decide +kernel

/-- n shifts divide x^n times the register, one bit of the quotient a shift (R70). -/
theorem crcShifts_divides {n : Nat} (hn : n ≤ 8) (x : Byte) :
    ∃ q : Byte, x.setWidth 16 <<< n = gf2Mul q 0x131#16 ^^^ (crcShifts n x).setWidth 16 := by
  induction n generalizing x with
  | zero => exact ⟨0#8, by simp [crcShifts, gf2Mul_zero]⟩
  | succ n ih =>
    obtain ⟨q, hq⟩ := ih (by omega) (crcShift x)
    have hbit : ∃ q₁ : Byte, gf2Mul q₁ 0x131#16 = (if x.msb = true then 0x131#16 else 0#16) <<< n := by
      split
      · exact ⟨_, gf2Mul_twoPow ⟨n, hn⟩⟩
      · exact ⟨0#8, by rw [BitVec.zero_shiftLeft, gf2Mul_zero]⟩
    obtain ⟨q₁, hq₁⟩ := hbit
    refine ⟨q₁ ^^^ q, ?_⟩
    calc x.setWidth 16 <<< (n + 1)
        = (x.setWidth 16 <<< 1) <<< n := by rw [← BitVec.shiftLeft_add, Nat.add_comm]
      _ = gf2Mul q₁ 0x131#16 ^^^ (crcShift x).setWidth 16 <<< n := by
        rw [crcShift_divides, BitVec.shiftLeft_xor_distrib, hq₁]
      _ = gf2Mul (q₁ ^^^ q) 0x131#16 ^^^ (crcShifts (n + 1) x).setWidth 16 := by
        rw [hq, gf2Mul_xor, BitVec.xor_assoc]; rfl

/-- The remainder of a division by the polynomial is unique: two of them differ by a multiple below x^8. -/
theorem remainder_unique {q q' r r' : Byte}
    (h : gf2Mul q 0x131#16 ^^^ r.setWidth 16 = gf2Mul q' 0x131#16 ^^^ r'.setWidth 16) : r = r' := by
  have hdiff : gf2Mul (q ^^^ q') 0x131#16 = (r ^^^ r').setWidth 16 := by
    rw [gf2Mul_xor, BitVec.setWidth_xor, ← BitVec.xor_eq_zero_iff]
    rw [← BitVec.xor_eq_zero_iff] at h
    rw [← h]
    ac_rfl
  have hnat : (gf2Mul (q ^^^ q') 0x131#16).toNat = (r ^^^ r').toNat := by
    rw [hdiff, BitVec.toNat_setWidth_of_le (by decide)]
  have hzero : gf2Mul (q ^^^ q') 0x131#16 = 0#16 := gf2Mul_eq_zero_of_lt _ (hnat ▸ (r ^^^ r').isLt)
  rw [hzero] at hnat
  exact BitVec.xor_eq_zero_iff.1 (BitVec.eq_of_toNat_eq hnat.symm)

end Sys2Proof.Machine
end

section
/-! PROOFS. The statements of 42_crc.md about crc_step and crc_seq (R70 to R72, R79). -/

namespace Sys2Proof.Machine

/-- Settles O50: the three laws are `crcSeq_xor_seed` with one seed 0 or with zero data. -/
theorem crcIsLinear : Obligations.CrcIsLinear := by
  unfold Obligations.CrcIsLinear
  have hseeds (s t : Byte) (k : Nat) : crcSeq (s ^^^ t) (List.replicate k 0#8) =
      crcSeq s (List.replicate k 0#8) ^^^ crcSeq t (List.replicate k 0#8) := by
    simpa using crcSeq_xor_seed s t (List.replicate k 0#8)
  refine ⟨fun k => ?zero, fun s d => ?data, hseeds⟩
  case zero => simpa using hseeds 0#8 0#8 k
  case data => simpa using crcSeq_xor_seed s 0#8 d

/-- Settles O51: the appended byte meets a register equal to it. -/
theorem crcOfDataAndItsCrcIsZero : Obligations.CrcOfDataAndItsCrcIsZero := by
  unfold Obligations.CrcOfDataAndItsCrcIsZero
  intro s d
  rw [crcSeq_append, crcSeq_cons, crcStep_self, crcSeq_nil]

/-- Settles O52: the shifts lose nothing, nor does adding the seed. -/
theorem crcStepLosesNoByte : Obligations.CrcStepLosesNoByte := by
  unfold Obligations.CrcStepLosesNoByte
  intro c b b' h
  exact (BitVec.xor_right_inj c).1 (crcShifts_injective 8 h)

/-- Settles O60: the shifts give a remainder, and it is the only one. -/
theorem crcIsThePolynomialRemainder : Obligations.CrcIsThePolynomialRemainder := by
  unfold Obligations.CrcIsThePolynomialRemainder
  intro c b r
  have hdiv : ∃ q : Byte, (c ^^^ b).setWidth 16 <<< 8 = gf2Mul q 0x131#16 ^^^ (crcStep c b).setWidth 16 :=
    crcShifts_divides (Nat.le_refl 8) (c ^^^ b)
  constructor
  · rintro ⟨q, hq⟩
    obtain ⟨q', hq'⟩ := hdiv
    exact remainder_unique (hq.symm.trans hq')
  · rintro rfl
    exact hdiv

/-- Settles O49: a step sees only the sum of seed and byte; the nine entries are evaluated. -/
theorem crcStepIsATableLookup : Obligations.CrcStepIsATableLookup := by
  unfold Obligations.CrcStepIsATableLookup
  refine ⟨fun c b => ?lookup, by decide⟩
  case lookup => rw [crcTable, crcStep, crcStep, BitVec.zero_xor]

/-- Settles O59: `crcShift` is R70's shift, and a fold takes the first element first. -/
theorem crcIsTheShiftRegister : Obligations.CrcIsTheShiftRegister := by
  unfold Obligations.CrcIsTheShiftRegister
  intro shift
  have hshift : crcShift = shift := funext crcShift_eq_ite
  refine ⟨fun c b => ?step, crcSeq_nil, crcSeq_cons⟩
  case step => rw [← hshift]; rfl

end Sys2Proof.Machine
end

section
/-! SUPPORT. The accumulator's commands (42_crc.md R73 to R78): the bytes CRCPACK folds, and a command issued on an idle
block and completed before the next (40_command_issue.md R56). -/

namespace Sys2Proof.Machine

/-- A list is known by its length and its elements. -/
theorem eq_map_range {a : List Byte} {n : Nat} {f : Nat → Byte} (hlen : a.length = n)
    (h : ∀ k < n, a.getD k 0#8 = f k) : a = (List.range n).map f := by
  subst hlen
  refine List.ext_getElem (by simp) fun k hk _ => ?_
  rw [List.getElem_map, List.getElem_range, ← h k hk, List.getD_eq_getElem _ _ hk]

/-- The big-endian array of the packer's raw bytes (R75). -/
theorem bigEndian_rawBytes_eq_map (s : State) :
    bigEndian s.nle (s.rawBytes s.packedSize) =
      (List.range (s.wm1.toNat + 1)).map fun k =>
        s.raw.toList.getD (if s.nle = true then s.wm1.toNat - k else k) 0#8 := by
  rw [bigEndian_eq_littleEndian_not]
  refine eq_map_range (by rw [littleEndian_length, rawBytes_packedSize_length]; rfl) fun k hk => ?_
  rw [littleEndian_rawBytes_getD, if_pos hk]
  cases s.nle <;> rfl

/-- R75's closed form of the value's big-endian bytes. -/
theorem valueBytes_eq_map (v : Dword) (w : Nat) :
    valueBytes v w = (List.range w).map fun k => byteOf v (w - 1 - k) :=
  eq_map_range (by simp [valueBytes]) fun k hk => by rw [valueBytes_getD, if_pos hk]

/-- With a value in the packer the big-endian array is the value's, in either native order (R75). -/
theorem bigEndian_rawBytes_of_holds {s : State} {v : Dword} {w : Nat} (h : Holds s v w) :
    bigEndian s.nle (s.rawBytes s.packedSize) = valueBytes v w := by
  rw [packedSize_of_holds h, rawBytes_of_holds h, bigEndian_natBytes]

/-- R77: the fold takes the bytes of the last argument first. -/
theorem crcFold_eq_crcSeq (args : List (Nat × Dword)) :
    crcFold args = crcSeq 0#8 (args.reverse.map fun a => valueBytes a.2 a.1).flatten := by
  induction args with
  | nil => rfl
  | cons a rest ih =>
    rw [crcFold, ih, ← crcSeq_append]
    simp

@[simp] theorem andThen_next (s : State) (f : State → Host.Outcome State Fault Refusal) :
    andThen (.next s) f = f s := rfl

/-- An idle block is as a completion leaves it (R53). -/
theorem retire_of_idle {s : State} (hb : s.busy = false) (hp : s.pend = none) : s.retire = s := by
  rw [State.retire, ← hb, ← hp]

/-- A command that passes its checks on an idle block is accepted, and the engine's turn completes it (R51, R53). -/
theorem serve_of_checked {i : Instr} {s : State} (hwf : i.wf = true) (hb : s.busy = false)
    (hv : readsPacker i = true → s.valid = true) (hw : needsFourBytes i = true → s.wm1 = 3#3) :
    serve i s = exec i (s.accept (encode i)) := by
  rw [serve, issue_of_checked hb (decode_encode hwf) hv hw]
  exact engineStep_of_pending rfl rfl (decode_encode hwf)

/-- CRCSEED served (R73). -/
theorem serve_crcseed {s : State} (hb : s.busy = false) (hp : s.pend = none) (b : Byte) :
    serve (.crcseed b) s = .next (s.setCrc b) := by
  rw [serve_of_checked rfl hb (by rintro ⟨⟩) (by rintro ⟨⟩), exec_crcseed, complete_of_pend rfl]
  exact congrArg _ (retire_of_idle (s := s.setCrc b) hb hp)

/-- CRCBYTE served (R74). -/
theorem serve_crcbyte {s : State} (hb : s.busy = false) (hp : s.pend = none) (b : Byte) :
    serve (.crcbyte b) s = .next (s.setCrc (crcStep s.crc b)) := by
  rw [serve_of_checked rfl hb (by rintro ⟨⟩) (by rintro ⟨⟩), exec_crcbyte, complete_of_pend rfl]
  exact congrArg _ (retire_of_idle (s := s.setCrc _) hb hp)

/-- PACK served: the snapshot of its issue is the DATA of the idle block (R57, R60). -/
theorem serve_pack {s : State} {w : Nat} (hb : s.busy = false) (hp : s.pend = none) (hw : sizeOk w = true) :
    serve (.pack w) s = .next (s.loadPacker (natBytes s.nle s.data w) w) := by
  rw [serve_of_checked (i := .pack w) hw hb (by rintro ⟨⟩) (by rintro ⟨⟩), exec_pack _ hw, complete_of_pend rfl]
  exact congrArg _ (retire_of_idle (s := s.loadPacker _ w) hb hp)

/-- CRCPACK served, with a value in the packer (R75). -/
theorem serve_crcpack {s : State} {v : Dword} {w : Nat} (hb : s.busy = false) (hp : s.pend = none)
    (h : Holds s v w) : serve .crcpack s = .next (s.setCrc (crcSeq s.crc (valueBytes v w))) := by
  obtain ⟨-, hvalid, -, -⟩ := id h
  rw [serve_of_checked rfl hb (fun _ => hvalid) (by rintro ⟨⟩), exec_crcpack, complete_of_pend rfl,
    ← bigEndian_rawBytes_of_holds h]
  exact congrArg _ (retire_of_idle (s := s.setCrc _) hb hp)

/-- CRCBYTE of each byte of the data, served in order (R76). -/
theorem serveAll_crcbyte (data : List Byte) {s : State} (hb : s.busy = false) (hp : s.pend = none) :
    serveAll (data.map .crcbyte) s = .next (s.setCrc (crcSeq s.crc data)) := by
  induction data generalizing s with
  | nil => rfl
  | cons b data ih =>
    rw [List.map_cons, serveAll, serve_crcbyte hb hp, andThen_next]
    exact ih (s := s.setCrc (crcStep s.crc b)) hb hp

/-- The block after rounds of CRCFOLD (R77): only DATA, the packer and CRC may differ. -/
def FoldFrame (s t : State) : Prop :=
  t = { s with raw := t.raw, valid := t.valid, wm1 := t.wm1, crc := t.crc, dataLo := t.dataLo, dataHi := t.dataHi }

theorem FoldFrame.trans {s t u : State} (hst : FoldFrame s t) (htu : FoldFrame t u) : FoldFrame s u := by
  unfold FoldFrame at *
  rw [htu, hst]

theorem FoldFrame.idle {s t : State} (h : FoldFrame s t) (hb : s.busy = false) (hp : s.pend = none) :
    t.busy = false ∧ t.pend = none := by
  rw [h]
  exact ⟨hb, hp⟩

/-- PACK loads the packer with a value it then holds (R20, R60). -/
theorem holds_loadPacker (s : State) (v : Dword) {w : Nat} (hw : sizeOk w = true) :
    Holds (s.loadPacker (natBytes s.nle v w) w) v w :=
  ⟨hw, rfl, rfl, rfl⟩

/-- PACK and CRCPACK served fold the bytes of DATA into CRC (R60, R75). -/
theorem serveAll_pack_crcpack {s : State} {w : Nat} (hb : s.busy = false) (hp : s.pend = none)
    (hw : sizeOk w = true) :
    serveAll [.pack w, .crcpack] s =
      .next ((s.loadPacker (natBytes s.nle s.data w) w).setCrc (crcSeq s.crc (valueBytes s.data w))) := by
  rw [serveAll, serve_pack hb hp hw, andThen_next, serveAll,
    serve_crcpack (s := s.loadPacker _ w) hb hp (holds_loadPacker s s.data hw)]
  rfl

/-- One round folds the value's big-endian bytes into CRC (R77 step 2). -/
theorem serveRound_folds {s : State} {w : Nat} (v : Dword) (hb : s.busy = false) (hp : s.pend = none)
    (hw : sizeOk w = true) :
    ∃ t, serveRound w v s = .next t ∧ t.crc = crcSeq s.crc (valueBytes v w) ∧ FoldFrame s t := by
  have hdata : ((s.setDataLo (lowHalf v)).setDataHi (highHalf v)).data = v := highHalf_append_lowHalf v
  refine ⟨_, serveAll_pack_crcpack (s := (s.setDataLo _).setDataHi _) hb hp hw, ?_, rfl⟩
  rw [setCrc_crc, hdata]
  rfl

/-- From CRC 0x00 the rounds leave the fold of the arguments in CRC (R77). -/
theorem serveRounds_fold {args : List (Nat × Dword)} {s : State} (hb : s.busy = false) (hp : s.pend = none)
    (hsizes : ∀ a ∈ args, sizeOk a.1 = true) (hcrc : s.crc = 0#8) :
    ∃ t, serveRounds args s = .next t ∧ t.crc = crcFold args ∧ FoldFrame s t := by
  induction args with
  | nil => exact ⟨s, rfl, hcrc, rfl⟩
  | cons a rest ih =>
    obtain ⟨hsize, hrest⟩ := List.forall_mem_cons.1 hsizes
    obtain ⟨t, ht, htcrc, hst⟩ := ih hrest
    obtain ⟨htb, htp⟩ := hst.idle hb hp
    obtain ⟨u, hu, hucrc, htu⟩ := serveRound_folds a.2 htb htp hsize
    refine ⟨u, ?_, ?_, hst.trans htu⟩
    · rw [serveRounds, ht, andThen_next, hu]
    · rw [hucrc, htcrc, crcFold]

end Sys2Proof.Machine
end

section
/-! PROOFS. The statements of 42_crc.md about the accumulator's commands (R73 to R78). -/

namespace Sys2Proof.Machine

/-- Settles O33: each completion writes CRC; CRCPACK's bytes are named by `bigEndian_rawBytes_eq_map`. -/
theorem crcCommandsAdvanceTheAccumulator : Obligations.CrcCommandsAdvanceTheAccumulator := by
  unfold Obligations.CrcCommandsAdvanceTheAccumulator
  refine fun s d imm => ⟨fun hp => ?seed, fun hp => ?byte, fun hp => ?pack⟩
  case seed => rw [exec_crcseed, complete_of_pends hp]; rfl
  case byte => rw [exec_crcbyte, complete_of_pends hp]; rfl
  case pack => rw [exec_crcpack, complete_of_pends hp, bigEndian_rawBytes_eq_map]; rfl

/-- Settles O53: the big-endian array of a held value is the value's bytes, most significant first. -/
theorem crcPackFoldsTheBigEndianBytes : Obligations.CrcPackFoldsTheBigEndianBytes := by
  unfold Obligations.CrcPackFoldsTheBigEndianBytes
  intro s v d w hv hp
  refine ⟨_, by rw [exec_crcpack, complete_of_pends hp], ?_⟩
  rw [retire_crc, setCrc_crc, bigEndian_rawBytes_of_holds hv, valueBytes_eq_map]

/-- Settles O54: by induction on the arguments, appending bytes being chaining seeds (R71). -/
theorem foldIsRightToLeft : Obligations.FoldIsRightToLeft := by
  unfold Obligations.FoldIsRightToLeft
  exact ⟨crcFold_eq_crcSeq, fun _ _ => rfl, fun _ _ _ _ => rfl⟩

/-- Settles O55: CRCSEED served, then the bytes served one by one. -/
theorem commandSequenceComputesCrc8 : Obligations.CommandSequenceComputesCrc8 := by
  unfold Obligations.CommandSequenceComputesCrc8
  intro s seed data hb hp
  rw [serveAll, serve_crcseed hb hp, andThen_next, serveAll_crcbyte data (s := s.setCrc seed) hb hp]
  rfl

/-- Settles O56: CRCSEED 0x00 served, then the rounds; what a round leaves is `FoldFrame`. -/
theorem commandSequenceComputesTheFold : Obligations.CommandSequenceComputesTheFold := by
  unfold Obligations.CommandSequenceComputesTheFold
  intro s args hb hp _ hsizes
  obtain ⟨t, ht, hcrc, hframe⟩ := serveRounds_fold (s := s.setCrc 0#8) hb hp
    (fun a ha => (sizeOk_iff a.1).2 (hsizes a ha)) rfl
  refine ⟨t, ?_, hcrc, ?_⟩
  · rw [serveFold, serve_crcseed hb hp, andThen_next, ht]
  · rw [hframe]
    exact ⟨hb, hp, rfl, rfl, rfl, rfl, rfl, rfl⟩

end Sys2Proof.Machine
end

section
/-! SUPPORT. The error record (60_exceptions.md R80 to R90): what each failed check of an issue records, what does not
depend on the record, and the host's write of one register as a step. -/

namespace Sys2Proof.Machine

/-- The first error is kept with its word (R80). -/
theorem raiseError_of_none {s : State} (h : s.err = 0#4) (code : BitVec 4) (c : Word) :
    raiseError code c s = { s with err := code, errcmd := c } :=
  if_pos h

/-- A later error only sets MERR (R80, R90). -/
theorem raiseError_of_recorded {s : State} (h : s.err ≠ 0#4) (code : BitVec 4) (c : Word) :
    raiseError code c s = { s with merr := true } :=
  if_neg h

/-- A word written while BUSY = 1 is an OVERRUN, whatever it decodes to (R85). -/
theorem issue_of_busy {s : State} (hb : s.busy = true) (c : Word) : issue c s = raiseError errOverrun c s :=
  if_pos hb

/-- A command that reads the packer while it holds no value is an EMPTY (R83). -/
theorem issue_of_empty {c : Word} {i : Instr} {s : State} (hb : s.busy = false) (hd : decode c = .legal i)
    (hr : readsPacker i = true) (hv : s.valid = false) : issue c s = raiseError errEmpty c s := by
  simp [issue, hb, hd, hr, hv]

/-- A 32-bit accessor of a packer that holds another size is a WIDTH (R84), where EMPTY does not come first (R86). -/
theorem issue_of_width {c : Word} {i : Instr} {s : State} (hb : s.busy = false) (hd : decode c = .legal i)
    (hv : readsPacker i = true → s.valid = true) (hn : needsFourBytes i = true) (hw : s.wm1 ≠ 3#3) :
    issue c s = raiseError errWidth c s := by
  have hnotEmpty : (readsPacker i && !s.valid) = false := by simpa using hv
  simp [issue, hb, hd, hnotEmpty, hn, hw]

/-- MERR is set by an issue and never cleared by one (R90). -/
theorem issue_merr {s : State} (h : s.merr = true) (c : Word) : (issue c s).merr = true := by
  obtain ⟨code, -, -, hi⟩ | ⟨-, hi, -⟩ := issue_rejects_or_accepts c s
  · rw [hi]
    obtain ⟨-, hr⟩ | ⟨-, hr⟩ := raiseError_cases code c s
    · rw [hr]; exact h
    · rw [hr]; rfl
  · rw [hi]; exact h

theorem SameButErrors.symm {s t : State} (h : SameButErrors s t) : SameButErrors t s := by
  rw [h]; rfl

theorem SameButErrors.trans {s t u : State} (hst : SameButErrors s t) (htu : SameButErrors t u) :
    SameButErrors s u := by
  unfold SameButErrors at hst htu ⊢
  rw [htu, hst]

theorem sameButErrors_raiseError (code : BitVec 4) (c : Word) (s : State) : SameButErrors s (raiseError code c s) := by
  obtain ⟨e, m, k, h⟩ := raiseError_eq code c s
  rw [h]; rfl

/-- The checks of an issue look at nothing of the error record, so a command is accepted with any record (R51, R88). -/
theorem SameButErrors.issue_accepts {s t : State} (h : SameButErrors s t) {c : Word} {i : Instr}
    (hb : s.busy = false) (hd : decode c = .legal i) (hv : readsPacker i = true → s.valid = true)
    (hw : needsFourBytes i = true → s.wm1 = 3#3) : SameButErrors (s.accept c) (issue c t) := by
  have ht : issue c t = t.accept c := by
    rw [h]; exact issue_of_checked hb hd hv hw
  rw [ht, h]; rfl

/-- An issue is the same with any error record, but for the record (R88). -/
theorem SameButErrors.issue {s t : State} (h : SameButErrors s t) (c : Word) :
    SameButErrors (issue c s) (issue c t) := by
  obtain ⟨code, -, -, hs⟩ | ⟨hb, hs, i, hd, hv, hw⟩ := issue_rejects_or_accepts c s
  · obtain ⟨code', -, -, ht⟩ | ⟨hb, ht, i, hd, hv, hw⟩ := issue_rejects_or_accepts c t
    · rw [hs, ht]
      exact ((sameButErrors_raiseError code c s).symm.trans h).trans (sameButErrors_raiseError code' c t)
    · rw [ht]
      exact (h.symm.issue_accepts hb hd hv hw).symm
  · rw [hs]
    exact h.issue_accepts hb hd hv hw

/-- The state with another error record. -/
def State.setErrors (s : State) (e : BitVec 4) (m : Bool) (k : Word) : State :=
  { s with err := e, merr := m, errcmd := k }

/-- Two states that differ at most in the error record are one state with two records. -/
theorem sameButErrors_iff (s t : State) : SameButErrors s t ↔ t = s.setErrors t.err t.merr t.errcmd := Iff.rfl

theorem sameButErrors_setErrors (s : State) (e : BitVec 4) (m : Bool) (k : Word) :
    SameButErrors s (s.setErrors e m k) := rfl

/-- No completion reads or writes the error record: command by command, its effect passes through (R53, R88). -/
theorem exec_setErrors {i : Instr} {s t : State} (e : BitVec 4) (m : Bool) (k : Word) (h : exec i s = .next t) :
    exec i (s.setErrors e m k) = .next (t.setErrors e m k) := by
  have hcommutes : ∀ {perform : Dword → State → State}, (∀ u, exec i u = complete perform u) →
      (∀ d u, perform d (u.setErrors e m k) = (perform d u).setErrors e m k) →
      exec i (s.setErrors e m k) = .next (t.setErrors e m k) := by
    intro perform heq hblind
    rw [heq] at h ⊢
    exact complete_commutes (g := fun u => u.setErrors e m k) (fun _ => rfl) (fun _ => rfl) hblind h
  cases i with
  | nop => exact hcommutes exec_nop fun _ _ => rfl
  | pack w => exact hcommutes (fun u => exec_pack u (wf_of_exec h)) fun _ _ => rfl
  | getbe => exact hcommutes exec_getbe fun _ _ => rfl
  | getle => exact hcommutes exec_getle fun _ _ => rfl
  | getu32 => exact hcommutes exec_getu32 fun _ _ => rfl
  | getu32be => exact hcommutes exec_getu32be fun _ _ => rfl
  | getu32le => exact hcommutes exec_getu32le fun _ _ => rfl
  | unpack => exact hcommutes exec_unpack fun _ _ => rfl
  | crcseed b => exact hcommutes (exec_crcseed · b) fun _ _ => rfl
  | crcbyte b => exact hcommutes (exec_crcbyte · b) fun _ _ => rfl
  | crcpack => exact hcommutes exec_crcpack fun _ _ => rfl

/-- A completion is the same with any error record, but for the record (R88). -/
theorem SameButErrors.exec {s s' t : State} (hs : SameButErrors s s') {i : Instr} (h : exec i s = .next t) :
    ∃ t', exec i s' = .next t' ∧ SameButErrors t t' := by
  rw [(sameButErrors_iff s s').1 hs]
  exact ⟨_, exec_setErrors _ _ _ h, sameButErrors_setErrors t _ _ _⟩

/-- The host's turn with a write of a register next, as a step (R35, R47). -/
theorem step_of_memWrite {s : State} {off : Int} {v : Word} (r : Reg) (hoff : off = (r.off : Int))
    (hturn : nextTurn s = .host) (hst : s.host.script[s.host.pos]? = some (.memWrite off 4 v)) :
    step s = .next ((writeReg r v (takeTurn s)).setHost s.host.advance) := by
  have hadm : admitted off 4 = true := by rw [hoff]; exact (regAt_off r).1
  have hst' : (takeTurn s).host.script[(takeTurn s).host.pos]? = some (.memWrite off 4 v) := by rwa [takeTurn_host]
  rw [step_of_host hturn, hostStep_of_stmt hst', memWrite_of_admitted hadm, writeReg_regAt_of_eq r hoff, takeTurn_host]

end Sys2Proof.Machine
end

section
/-! PROOFS. The statements of 60_exceptions.md. -/

namespace Sys2Proof.Machine

/-- Settles O8: one lemma for each check that fails, each with the earlier checks passed, and `issue_of_checked`. -/
theorem oneErrorInPriorityOrder : Obligations.OneErrorInPriorityOrder := by
  unfold Obligations.OneErrorInPriorityOrder
  intro c s herr
  simp only [← readsPacker_iff_mem, ← needsFourBytes_iff_mem, Bool.not_eq_true]
  have hvalid : ∀ {i : Instr}, ¬ (s.valid = false ∧ ∃ j, decode c = .legal j ∧ readsPacker j = true) →
      decode c = .legal i → readsPacker i = true → s.valid = true :=
    fun hempty hd hr => by_contra fun hv => hempty ⟨Bool.eq_false_iff.2 hv, _, hd, hr⟩
  refine ⟨?overrun, ?illegal, ?empty, ?width, ?accepted⟩
  case overrun => exact fun hb => by rw [issue_of_busy hb, raiseError_of_none herr]; rfl
  case illegal => exact fun hb ⟨_, hd⟩ => by rw [issue_of_illegal hb hd, raiseError_of_none herr]; rfl
  case empty =>
    rintro hb - ⟨hv, i, hd, hr⟩
    rw [issue_of_empty hb hd hr hv, raiseError_of_none herr]; rfl
  case width =>
    rintro hb - hempty ⟨hw, i, hd, hn⟩
    rw [issue_of_width hb hd (hvalid hempty hd) hn hw, raiseError_of_none herr]; rfl
  case accepted =>
    intro hb hlegal hempty hwidth
    rw [illegal_iff_not_legal, not_not] at hlegal
    obtain ⟨i, hd⟩ := hlegal
    have hw : needsFourBytes i = true → s.wm1 = 3#3 := fun hn => by_contra fun hne => hwidth ⟨hne, i, hd, hn⟩
    rw [issue_of_checked hb hd (hvalid hempty hd) hw]
    exact ⟨herr, rfl, rfl⟩

/-- Settles O9: the word is an OVERRUN before it is decoded, and no completion depends on what that recorded. -/
theorem overrunDiscardsTheWord : Obligations.OverrunDiscardsTheWord := by
  unfold Obligations.OverrunDiscardsTheWord
  intro c s hb
  rw [issue_of_busy hb]
  exact ⟨fun h => raiseError_of_none h _ c, fun h => raiseError_of_recorded h _ c,
    fun i t h => (sameButErrors_raiseError errOverrun c s).exec h⟩

/-- Settles O10: an issue is a later error or accepts, and of the steps that touch the record a CMD write keeps MERR. -/
theorem laterErrorsOnlySetMerr : Obligations.LaterErrorsOnlySetMerr := by
  unfold Obligations.LaterErrorsOnlySetMerr
  refine ⟨fun c s herr => ?either, fun c s herr hcase => ?error, fun s t hs hstep ht => ?cleared⟩
  case either =>
    obtain ⟨code, -, -, h⟩ | ⟨-, h, -⟩ := issue_rejects_or_accepts c s
    · exact .inl (h.trans (raiseError_of_recorded herr code c))
    · exact .inr h
  case error =>
    by_cases hb : s.busy = true
    · rw [issue_of_busy hb, raiseError_of_recorded herr]
    · obtain ⟨why, hd⟩ := hcase.resolve_left hb
      rw [issue_of_illegal (Bool.eq_false_iff.2 hb) hd, raiseError_of_recorded herr]
  case cleared =>
    obtain ⟨-, hsame, -⟩ | hreset | ⟨hturn, v, hcmd | herrclr⟩ :=
      onlyIssueErrClrAndResetTouchTheErrorRecord s t hstep
    · simp [hsame, hs] at ht
    · exact .inl hreset
    · rw [step_of_memWrite .cmd rfl hturn hcmd] at hstep
      cases hstep
      have hkept : (issue v (takeTurn s)).merr = true := issue_merr (by rwa [takeTurn_merr]) v
      exact absurd (hkept.symm.trans ht) (by decide)
    · exact .inr ⟨hturn, v, herrclr⟩

/-- Settles O11: the host's turn writes STATUS, and bit 31 alone decides what that does. -/
theorem errClrClearsTheErrorRecord : Obligations.ErrClrClearsTheErrorRecord := by
  unfold Obligations.ErrClrClearsTheErrorRecord
  intro s v hturn hst
  have hwrite : writeReg .status v (takeTurn s) = writeStatus v (takeTurn s) := rfl
  rw [step_of_memWrite .status rfl hturn hst, hwrite]
  obtain ⟨hv, hw⟩ | ⟨hv, hw⟩ := writeStatus_cases v (takeTurn s)
  · rw [hw, if_pos hv]; rfl
  · rw [hw, if_neg (Bool.eq_false_iff.1 hv)]; rfl

/-- Settles O12: neither the checks of an issue nor a command's effect see the error record. -/
theorem recordedErrorsBlockNothing : Obligations.RecordedErrorsBlockNothing := by
  unfold Obligations.RecordedErrorsBlockNothing
  exact fun s s' h => ⟨h.issue, fun i t => h.exec⟩

end Sys2Proof.Machine
end

section
/-! SUPPORT. A completion that writes a result does not depend on what the result held (70_reset_and_hazards.md R106). -/

namespace Sys2Proof.Machine

/-- GETBE and GETLE write every element of ARR and read none (R25). -/
theorem exec_overwrites_arr {i : Instr} (hi : i ∈ [.getbe, .getle]) (s : State) (a : Lanes) :
    exec i { s with arr := a } = exec i s := by
  simp only [List.mem_cons, List.not_mem_nil, or_false] at hi
  obtain rfl | rfl := hi
  · rw [exec_getbe, exec_getbe]; rfl
  · rw [exec_getle, exec_getle]; rfl

/-- The four commands that return a number write both halves of RES and read neither (R23). -/
theorem exec_overwrites_res {i : Instr} (hi : i ∈ [.getu32, .getu32be, .getu32le, .unpack]) (s : State)
    (lo high : Word) : exec i { s with resLo := lo, resHi := high } = exec i s := by
  simp only [List.mem_cons, List.not_mem_nil, or_false] at hi
  obtain rfl | rfl | rfl | rfl := hi
  · rw [exec_getu32, exec_getu32]; rfl
  · rw [exec_getu32be, exec_getu32be]; rfl
  · rw [exec_getu32le, exec_getu32le]; rfl
  · rw [exec_unpack, exec_unpack]; rfl

/-- CRCSEED writes CRC without reading it (R24, R73). -/
theorem exec_crcseed_overwrites_crc (b : Byte) (s : State) (v : Byte) :
    exec (.crcseed b) { s with crc := v } = exec (.crcseed b) s := by
  rw [exec_crcseed, exec_crcseed]; rfl

end Sys2Proof.Machine
end

section
/-! PROOFS. The statement of 70_reset_and_hazards.md on results (R106). -/

namespace Sys2Proof.Machine

/-- Settles O34: `exec_writes_own_group` leaves a result to its own commands, which overwrite it whatever it held. -/
theorem resultsAreOverwrittenWholeOrLeft : Obligations.ResultsAreOverwrittenWholeOrLeft := by
  unfold Obligations.ResultsAreOverwrittenWholeOrLeft
  intro i s t h
  obtain ⟨-, hcrc, hres, harr⟩ := exec_writes_own_group h
  refine ⟨?arr, ?res, ?crcLeft, ?crcSeed⟩
  case arr =>
    split
    · exact fun a => ⟨t, (exec_overwrites_arr ‹_› s a).trans h, rfl⟩
    · exact harr.resolve_right ‹_›
  case res =>
    split
    · exact fun lo hi => ⟨t, (exec_overwrites_res ‹_› s lo hi).trans h, rfl, rfl⟩
    · exact hres.resolve_right ‹_›
  case crcLeft =>
    intro hseed hbyte hpack
    simpa [hseed, hbyte, hpack] using hcrc
  case crcSeed =>
    rintro b rfl v
    exact ⟨t, (exec_crcseed_overwrites_crc b s v).trans h, rfl⟩

end Sys2Proof.Machine
end
